-- ==== Sys2Proof/Word.lean ====
section
/-! DEFINITION. The widths of the OTPD core (00_scope R8): a byte is 8 bits, a word 32 bits, counters 64 bits; every
value is unsigned and bit 0 is the least significant. -/

namespace Sys2Proof

/-- A byte (R8). -/
abbrev Byte := BitVec 8

/-- A word of the engine (R7 `WORD`, R8). -/
abbrev Word := BitVec 32

/-- The width of `COUNT` (R18) and of `COUNTER` (R23). -/
abbrev Word64 := BitVec 64

end Sys2Proof
end

