-- ==== Sys2Proof/Config.lean ====
section
/-! DEFINITION. What is fixed when the core is built: the one open parameter `CTR_ORDER` (00_scope R7, 10_state R32) and
the constants that the reset state needs. No behaviour of this core is a free value (93_implementation_defined section 1
gives every open point a treatment), so nothing here is opaque. -/

namespace Sys2Proof

/-- `CTR_ORDER`: the byte order of the 8-byte counter form (R7, R9, R40; 90_conflicts C1). -/
inductive CtrOrder where
  | big
  | little
deriving DecidableEq, Repr

/-- The configuration of one core: fixed when it is built, changed by no command (R32). -/
structure Config where
  ctrOrder : CtrOrder
deriving DecidableEq, Repr

namespace Config

/-- The spec's default configuration, `CTR_ORDER = big` (R7, D10). -/
def default : Config := { ctrOrder := .big }

/-- `IV`, the five initial digest words (R7, R15, R64). -/
def iv : Vector Word 5 :=
  #v[0x67452301#32, 0xEFCDAB89#32, 0x98BADCFE#32, 0x10325476#32, 0xC3D2E1F0#32]

/-- `DEFAULT_SECRET`, the 20 bytes `30 31 ... 43` (R7, R107). -/
def defaultSecret : List Byte :=
  [0x30#8, 0x31#8, 0x32#8, 0x33#8, 0x34#8, 0x35#8, 0x36#8, 0x37#8, 0x38#8, 0x39#8,
   0x3A#8, 0x3B#8, 0x3C#8, 0x3D#8, 0x3E#8, 0x3F#8, 0x40#8, 0x41#8, 0x42#8, 0x43#8]

/-- `COUNTER_DEFAULT` (R7, R31). -/
def counterDefault : Word64 := 1#64

/-- `SECRET_MIN`, in bytes (R7, R22). -/
def secretMin : Nat := 20

/-- The longest payload a frame can carry: `LENW` is 16 bits (R7, R48). -/
def payloadMax : Nat := 65535

/-- `SECRET_MAX`, in bytes (R7, D14). -/
def secretMax : Nat := payloadMax

end Config

end Sys2Proof
end

