-- ==== Sys2Proof/Syntax.lean ====
section
/-! DEFINITION. The fifteen commands of the core, one constructor per row of the opcode table (30_encoding R53), with the
operands that R50 gives them. Byte sequences of any length are lists; the two operands of a fixed length (R50: the
20-byte `hmac`, the 8-byte counter form) are vectors, so a wrong length cannot be written (60_exceptions R127). -/

namespace Sys2Proof

/-- A decoded command. A counter operand is kept as the 8 bytes of the frame: which number they are depends on
`CTR_ORDER` and is settled by the meaning (R56, R106, R109), not by the decoder. -/
inductive Instr where
  /-- `CORE_RESET` (R120). -/
  | coreReset
  /-- `CORE_STATUS` (R121). -/
  | coreStatus
  /-- `SHA1_INIT` (R65). -/
  | sha1Init
  /-- `SHA1_UPDATE data` (R67). -/
  | sha1Update (data : List Byte)
  /-- `SHA1_FINAL` (R76). -/
  | sha1Final
  /-- `HMAC_INIT key` (R85). -/
  | hmacInit (key : List Byte)
  /-- `HMAC_UPDATE data` (R86). -/
  | hmacUpdate (data : List Byte)
  /-- `HMAC_FINAL` (R88). -/
  | hmacFinal
  /-- `OTP_FORMAT hmac` (R99). -/
  | otpFormat (hmac : Vector Byte 20)
  /-- `GEN_CONSTRUCT [secret] [counter]` (R55, R106). -/
  | genConstruct (secret : Option (List Byte)) (ctr : Option (Vector Byte 8))
  /-- `GEN_SET_SECRET secret` (R108). -/
  | genSetSecret (secret : List Byte)
  /-- `GEN_SET_COUNTER bytes8` (R109). -/
  | genSetCounter (bytes : Vector Byte 8)
  /-- `GEN_GET_COUNTER` (R110). -/
  | genGetCounter
  /-- `GEN_CURRENT` (R112). -/
  | genCurrent
  /-- `GEN_NEXT` (R113). -/
  | genNext
deriving DecidableEq, Repr

end Sys2Proof
end

