-- ==== Sys2Proof/WellFormed.lean ====
section
/-! DEFINITION. Which commands can be framed: the payload must fit the 16-bit `LEN` (30_encoding R48, R50, 70 R151). -/

namespace Sys2Proof

/-- The command has a frame: its payload is at most 65535 bytes. Only the five commands with an operand of varying length
can fail it (R50); `GEN_CONSTRUCT` also spends one byte on `FLAGS` and eight on a counter (R55). -/
def Instr.wellFormed : Instr → Bool
  | .sha1Update data => data.length ≤ Config.payloadMax
  | .hmacInit key => key.length ≤ Config.payloadMax
  | .hmacUpdate data => data.length ≤ Config.payloadMax
  | .genConstruct (some secret) (some _) => 9 + secret.length ≤ Config.payloadMax
  | .genConstruct (some secret) none => 1 + secret.length ≤ Config.payloadMax
  | .genConstruct none _ => true
  | .genSetSecret secret => secret.length ≤ Config.payloadMax
  | .coreReset => true
  | .coreStatus => true
  | .sha1Init => true
  | .sha1Final => true
  | .hmacFinal => true
  | .otpFormat _ => true
  | .genSetCounter _ => true
  | .genGetCounter => true
  | .genCurrent => true
  | .genNext => true

end Sys2Proof
end

