-- ==== Sys2Proof/Decode.lean ====
section
/-! DEFINITION. The command frame (30_encoding R47 to R50, R53 to R55): a decoder that is total on any bytes and rejects
by name, then the encoder, then the words of the opcode table that the host asks about. -/

namespace Sys2Proof

/-- The fifteen assigned opcodes (R53), without operands. -/
inductive Opcode where
  | coreReset | coreStatus
  | sha1Init | sha1Update | sha1Final
  | hmacInit | hmacUpdate | hmacFinal
  | otpFormat
  | genConstruct | genSetSecret | genSetCounter | genGetCounter | genCurrent | genNext
deriving DecidableEq, Repr

/-- The opcode byte: the high nibble is the unit, the low nibble the operation (R53). -/
def opcodeByte : Opcode → Byte
  | .coreReset => 0x00#8
  | .coreStatus => 0x01#8
  | .sha1Init => 0x10#8
  | .sha1Update => 0x11#8
  | .sha1Final => 0x12#8
  | .hmacInit => 0x20#8
  | .hmacUpdate => 0x21#8
  | .hmacFinal => 0x22#8
  | .otpFormat => 0x30#8
  | .genConstruct => 0x40#8
  | .genSetSecret => 0x41#8
  | .genSetCounter => 0x42#8
  | .genGetCounter => 0x43#8
  | .genCurrent => 0x44#8
  | .genNext => 0x45#8

/-- Every row of the opcode table, in its order (R53). -/
def opcodeTable : List Opcode :=
  [.coreReset, .coreStatus, .sha1Init, .sha1Update, .sha1Final, .hmacInit, .hmacUpdate, .hmacFinal,
   .otpFormat, .genConstruct, .genSetSecret, .genSetCounter, .genGetCounter, .genCurrent, .genNext]

/-- The row of the table whose opcode byte is `b`; none for the 241 reserved values (R54). -/
def opcodeOfByte (b : Byte) : Option Opcode :=
  opcodeTable.find? fun op => opcodeByte op == b

/-- Which command an instruction is. -/
def opcodeOf : Instr → Opcode
  | .coreReset => .coreReset
  | .coreStatus => .coreStatus
  | .sha1Init => .sha1Init
  | .sha1Update _ => .sha1Update
  | .sha1Final => .sha1Final
  | .hmacInit _ => .hmacInit
  | .hmacUpdate _ => .hmacUpdate
  | .hmacFinal => .hmacFinal
  | .otpFormat _ => .otpFormat
  | .genConstruct _ _ => .genConstruct
  | .genSetSecret _ => .genSetSecret
  | .genSetCounter _ => .genSetCounter
  | .genGetCounter => .genGetCounter
  | .genCurrent => .genCurrent
  | .genNext => .genNext

/-- Why bytes decode to no command. The last three are answered `IllegalCommand` (R49 steps 2 to 4, R127). -/
inductive DecodeError where
  /-- Fewer than 3 bytes, or a byte count other than `3 + LEN`: "is not a frame" (R48; 93 U12). -/
  | notAFrame
  /-- One of the 241 reserved opcodes (R54). -/
  | reservedOpcode
  /-- A `LEN` that R50 does not allow for the opcode. -/
  | badLength
  /-- A malformed `GEN_CONSTRUCT` payload (R55). -/
  | malformedConstruct
deriving DecidableEq, Repr

/-- A 16-bit big-endian length field: high byte first (R48, R51). -/
def lengthField (hi lo : Byte) : Nat := (hi ++ lo : BitVec 16).toNat

/-- The two bytes of a 16-bit big-endian length field (R48, R51). -/
def lengthBytes (n : Nat) : List Byte := [BitVec.ofNat 8 (n / 256), BitVec.ofNat 8 n]

/-- A byte sequence of exactly `n` bytes. -/
def exactly (n : Nat) (bytes : List Byte) : Option (Vector Byte n) :=
  if h : bytes.length = n then some ⟨bytes.toArray, by simp [h]⟩ else none

/-- `FLAGS` bit 0, `HAS_SECRET` (R55). -/
def hasSecret (flags : Byte) : Bool := flags.getLsbD 0

/-- `FLAGS` bit 1, `HAS_COUNTER` (R55). -/
def hasCounter (flags : Byte) : Bool := flags.getLsbD 1

/-- The bytes after `FLAGS` and `CTR`: the secret if `HAS_SECRET = 1`, else there must be none (R55). -/
def decodeSecretPart (flags : Byte) (ctr : Option (Vector Byte 8)) (rest : List Byte) : Except DecodeError Instr :=
  if hasSecret flags then .ok (.genConstruct (some rest) ctr)
  else if rest.isEmpty then .ok (.genConstruct none ctr)
  else .error .malformedConstruct

/-- The `GEN_CONSTRUCT` payload `FLAGS ‖ [CTR] ‖ [SEC]` (R55). -/
def decodeConstruct : List Byte → Except DecodeError Instr
  | [] => .error .malformedConstruct
  | flags :: rest =>
    if flags.extractLsb' 2 6 ≠ 0#6 then .error .malformedConstruct
    else if hasCounter flags then
      match exactly 8 (rest.take 8) with
      | some ctr => decodeSecretPart flags (some ctr) (rest.drop 8)
      | none => .error .malformedConstruct
    else decodeSecretPart flags none rest

/-- A command without operands: `LEN` must be 0 (R50). -/
def decodeBare (i : Instr) (payload : List Byte) : Except DecodeError Instr :=
  if payload.isEmpty then .ok i else .error .badLength

/-- A command whose one operand has a fixed length (R50). -/
def decodeFixed {n : Nat} (f : Vector Byte n → Instr) (payload : List Byte) : Except DecodeError Instr :=
  match exactly n payload with
  | some v => .ok (f v)
  | none => .error .badLength

/-- The allowed `LEN` and the operands of each opcode (R50, R55). -/
def decodePayload (op : Opcode) (payload : List Byte) : Except DecodeError Instr :=
  match op with
  | .coreReset => decodeBare .coreReset payload
  | .coreStatus => decodeBare .coreStatus payload
  | .sha1Init => decodeBare .sha1Init payload
  | .sha1Update => .ok (.sha1Update payload)
  | .sha1Final => decodeBare .sha1Final payload
  | .hmacInit => .ok (.hmacInit payload)
  | .hmacUpdate => .ok (.hmacUpdate payload)
  | .hmacFinal => decodeBare .hmacFinal payload
  | .otpFormat => decodeFixed (n := 20) .otpFormat payload
  | .genConstruct => decodeConstruct payload
  | .genSetSecret => .ok (.genSetSecret payload)
  | .genSetCounter => decodeFixed (n := 8) .genSetCounter payload
  | .genGetCounter => decodeBare .genGetCounter payload
  | .genCurrent => decodeBare .genCurrent payload
  | .genNext => decodeBare .genNext payload

/-- Steps 2 to 5 of decoding (R49), on any bytes. Step 1, the halt check, reads state: it is
`unlessHalted`'s for a frame that decodes and `rejectFrame`'s for one that does not. -/
def decode : List Byte → Except DecodeError Instr
  | op :: hi :: lo :: payload =>
    if payload.length = lengthField hi lo then
      match opcodeOfByte op with
      | some o => decodePayload o payload
      | none => .error .reservedOpcode
    else .error .notAFrame
  | _ => .error .notAFrame

/-! ### The encoder -/

/-- The `FLAGS` byte of a `GEN_CONSTRUCT` (R55). -/
def constructFlags (secret : Option (List Byte)) (ctr : Option (Vector Byte 8)) : Byte :=
  (if secret.isSome then 1#8 else 0#8) ||| (if ctr.isSome then 2#8 else 0#8)

/-- The payload of a command (R50, R55). -/
def payloadOf : Instr → List Byte
  | .sha1Update data => data
  | .hmacInit key => key
  | .hmacUpdate data => data
  | .otpFormat hmac => hmac.toList
  | .genConstruct secret ctr =>
    constructFlags secret ctr :: ((ctr.map Vector.toList).getD [] ++ secret.getD [])
  | .genSetSecret secret => secret
  | .genSetCounter bytes => bytes.toList
  | .coreReset => []
  | .coreStatus => []
  | .sha1Init => []
  | .sha1Final => []
  | .hmacFinal => []
  | .genGetCounter => []
  | .genCurrent => []
  | .genNext => []

/-- The frame of a well-formed command: `OPCODE ‖ LEN ‖ PAYLOAD` (R48). -/
def encode (i : Instr) : List Byte :=
  opcodeByte (opcodeOf i) :: (lengthBytes (payloadOf i).length ++ payloadOf i)

/-! ### The words of the opcode table -/

/-- The least `LEN` the opcode table's row allows (R50; `source_fields.LEN` of `opcode_table.json`). -/
def leastLength (op : Byte) : Nat :=
  match opcodeOfByte op with
  | some .otpFormat => 20
  | some .genConstruct => 1
  | some .genSetCounter => 8
  | _ => 0

/-- Byte `k` of the frame whose bits are `w`, bit 0 the least significant bit of byte 0. -/
def tableByte (w k : Nat) : Byte := BitVec.ofNat 8 (w / 2 ^ (8 * k))

/-- DESIGN CHOICE (log entry 3): the frame for the `nbits` low bits of `w`. Byte 0 is `OPCODE`, bytes 1 and 2 are `LEN`. The
table numbers no bits for `LEN` and states it in words; a `LEN` of zero bits is filled in with the least length the row
allows, and the payload bytes above `nbits` are zero. This completes a frame for the host's question only: `decode` reads
`LEN` as it stands. -/
def tableFrame (nbits w : Nat) : List Byte :=
  let v := w % 2 ^ nbits
  let given := lengthField (tableByte v 1) (tableByte v 2)
  let len := if given = 0 then leastLength (tableByte v 0) else given
  tableByte v 0 :: (lengthBytes len ++ (List.range len).map fun k => tableByte v (k + 3))

/-- What the decoder reads from the table's word `w` of `nbits` bits (see `tableFrame`). -/
def decodeTableWord (nbits w : Nat) : Option Instr :=
  (decode (tableFrame nbits w)).toOption

end Sys2Proof
end

