-- ==== Sys2Proof/Machine/State.lean ====
section
/-! DEFINITION. The state of one core (10_state R13, "and nothing else"), unit by unit, the host's side of the command port,
and the state after reset (R31, 70 R141). Plain data throughout. -/

namespace Sys2Proof.Machine

/-- Why a machine step could stop with a fault: nothing does. The spec's two faults are next states (60_exceptions R129:
three registers are written and a response is given) and its list of outcomes is complete (R128), so this type has no
constructor. Safe: no behaviour of the hardware is cut short by a fault of the model. -/
inductive Fault
deriving DecidableEq, Repr

/-- Why a machine step is refused. -/
inductive Refusal where
  /-- An instruction the model gives no meaning to. No arm of `exec` answers it. Safe. -/
  | notModelled (mnemonic : String)
  /-- Raised by `step` when the host hands over bytes that are no frame: fewer than 3 bytes, or a byte count other than
  `3 + LEN` (30_encoding R48 "is not a frame ... the core never sees a short or long one"; 93 U12 "refuse (no run)"). Safe:
  the spec gives such bytes no run. -/
  | notAFrame
deriving DecidableEq, Repr

/-- `PHASE`: which unit has the engine open (R25). The reserved value 3 does not exist in the type, as R25 advises. -/
inductive Phase where
  | shaActive
  | hmacActive
  | done
deriving DecidableEq, Repr

/-- The causes of a fault (R27, 60 R123, R124). -/
inductive FaultCause where
  | reuseAfterFinal
  | noMatchingInit
deriving DecidableEq, Repr

/-- The SHA-1 engine (R15 to R18). `COUNT` is held as its two halves; see `engineCount`. -/
structure Engine where
  /-- `H[0..4]`. -/
  h : Vector Word 5
  /-- `BUF[0..63]`. -/
  buf : Vector Byte 64
  /-- `BUFLEN`, 0..63. -/
  bufLen : Fin 64
  /-- `COUNT_HI`. -/
  countHi : Word
  /-- `COUNT_LO`. -/
  countLo : Word
deriving DecidableEq, Repr

/-- The HMAC wrapper's registers (R20, R21). -/
structure HmacContext where
  /-- `KEY[0..63]`. -/
  key : Vector Byte 64
  /-- `KEYLEN`, 0..64. -/
  keyLen : Fin 65
deriving DecidableEq, Repr

/-- The OTP generator's registers (R22 to R24). `SECLEN` is the length of `secret`. -/
structure Generator where
  /-- `SECRET`. -/
  secret : List Byte
  /-- `COUNTER`. -/
  counter : Word64
  /-- `DEFSEC`. -/
  defsec : Bool
deriving DecidableEq, Repr

/-- The control and status registers (R25 to R28). -/
structure Control where
  /-- `PHASE`. -/
  phase : Phase
  /-- `FAULT`. -/
  fault : Bool
  /-- `FCAUSE`; `none` is the value 0. -/
  fcause : Option FaultCause
  /-- `FOP`. -/
  fop : Byte
deriving DecidableEq, Repr

/-- What the host can do to the core (00_scope R6): hand it one command frame, or assert reset (70 R141). -/
inductive HostInput where
  | command (frame : List Byte)
  | reset
deriving DecidableEq, Repr

/-- The host's side of the command port, not state of the core (R32). DESIGN CHOICE (log entry 2). -/
structure HostPort where
  /-- What the host has yet to hand over, the next one first. -/
  inbox : List HostInput
  /-- The response frames given so far, oldest first (70 R156). -/
  outbox : List (List Byte)
deriving DecidableEq, Repr

/-- The whole state. `config` is fixed (R32) and is carried here because the step has no other argument (log entry 1). -/
structure State where
  engine : Engine
  hmac : HmacContext
  gen : Generator
  ctl : Control
  config : Config
  host : HostPort
deriving DecidableEq, Repr

/-- The core right after reset under the configuration `c`, with nothing handed over and nothing answered (R31). -/
def State.resetWith (c : Config) : State where
  engine :=
    { h := Config.iv, buf := Vector.replicate 64 0#8, bufLen := 0, countHi := 0#32, countLo := 0#32 }
  hmac := { key := Vector.replicate 64 0#8, keyLen := 0 }
  gen := { secret := Config.defaultSecret, counter := Config.counterDefault, defsec := true }
  ctl := { phase := .shaActive, fault := false, fcause := none, fop := 0x00#8 }
  config := c
  host := { inbox := [], outbox := [] }

/-- The state after reset (R31), under the spec's default configuration. -/
def State.reset : State := State.resetWith Config.default

end Sys2Proof.Machine
end

