-- ==== Sys2Proof/Machine/Flags.lean ====
section
/-! DEFINITION. The status flags and control registers as numbers (10_state R25, R27, R28; 44_system R121), the phase check
of the UPDATE and FINAL commands (R26, 60 R123, R124), and the response statuses (30_encoding R52). The core has no condition
codes (R28), so there is no flag computation beside these. -/

namespace Sys2Proof.Machine

/-- The value of `PHASE` (R25). -/
def phaseCode : Phase → Nat
  | .shaActive => 0
  | .hmacActive => 1
  | .done => 2

/-- The cause code of a fault (R123, R124). -/
def causeCode : FaultCause → Byte
  | .reuseAfterFinal => 1#8
  | .noMatchingInit => 2#8

/-- The value of `FCAUSE` (R27). -/
def fcauseCode : Option FaultCause → Byte
  | none => 0#8
  | some c => causeCode c

/-- A one-bit flag as a number. -/
def bit (b : Bool) : Nat := if b then 1 else 0

/-- `S0`, the first byte of a `CORE_STATUS` answer: `FAULT * 128 + DEFSEC * 4 + PHASE` (R121). -/
def statusByte (s : State) : Byte :=
  BitVec.ofNat 8 (bit s.ctl.fault * 128 + bit s.gen.defsec * 4 + phaseCode s.ctl.phase)

/-- The phase check of an UPDATE or FINAL of the family that owns the engine in phase `own`: `DONE` is `ReuseAfterFinal`, the
other family's phase is `NoMatchingInit`, the family's own phase passes (R26, R132 item 4). -/
def phaseCheck (own : Phase) : Phase → Option FaultCause
  | .done => some .reuseAfterFinal
  | p => if p = own then none else some .noMatchingInit

/-- How a command ended (R52). -/
inductive Status where
  | ok
  | invalidSecret
  | invalidCounter
  | illegalCommand
  | faulted (cause : FaultCause)
  | halted
deriving DecidableEq, Repr

/-- The `STATUS` byte (R52); a fault's is `0x80 + cause` (R129). -/
def statusCode : Status → Byte
  | .ok => 0x00#8
  | .invalidSecret => 0x01#8
  | .invalidCounter => 0x02#8
  | .illegalCommand => 0x03#8
  | .faulted c => 0x80#8 + causeCode c
  | .halted => 0x8F#8

end Sys2Proof.Machine
end

