-- ==== Sys2Proof/Machine/Operands.lean ====
section
/-! DEFINITION. The conversions between numbers and bytes (00_scope R9, 20_memory R35 to R40): every multi-byte quantity is
most significant byte first, but for the 8-byte counter form, which follows `CTR_ORDER`. -/

namespace Sys2Proof.Machine

/-- `be32`: four bytes to a word, the first the most significant (R9). -/
def be32 (b0 b1 b2 b3 : Byte) : Word := b0 ++ b1 ++ b2 ++ b3

/-- `bytes_be32`: a word to four bytes (R9). -/
def bytesBe32 (w : Word) : Vector Byte 4 :=
  #v[w.extractLsb' 24 8, w.extractLsb' 16 8, w.extractLsb' 8 8, w.extractLsb' 0 8]

/-- `bytes_be64`: a 64-bit value to eight bytes, the most significant first (R9). -/
def bytesBe64 (v : Word64) : Vector Byte 8 :=
  #v[v.extractLsb' 56 8, v.extractLsb' 48 8, v.extractLsb' 40 8, v.extractLsb' 32 8,
     v.extractLsb' 24 8, v.extractLsb' 16 8, v.extractLsb' 8 8, v.extractLsb' 0 8]

/-- `bytes_le64`: a 64-bit value to eight bytes, the least significant first (R9). -/
def bytesLe64 (v : Word64) : Vector Byte 8 :=
  #v[v.extractLsb' 0 8, v.extractLsb' 8 8, v.extractLsb' 16 8, v.extractLsb' 24 8,
     v.extractLsb' 32 8, v.extractLsb' 40 8, v.extractLsb' 48 8, v.extractLsb' 56 8]

/-- `val_be64`: the inverse of `bytes_be64` (R9). -/
def valBe64 (b : Vector Byte 8) : Word64 := b[0] ++ b[1] ++ b[2] ++ b[3] ++ b[4] ++ b[5] ++ b[6] ++ b[7]

/-- `val_le64`: the inverse of `bytes_le64` (R9). -/
def valLe64 (b : Vector Byte 8) : Word64 := b[7] ++ b[6] ++ b[5] ++ b[4] ++ b[3] ++ b[2] ++ b[1] ++ b[0]

/-- `ser`: the 8-byte form of a counter (R9, R40, R56). -/
def ser : CtrOrder → Word64 → Vector Byte 8
  | .big, v => bytesBe64 v
  | .little, v => bytesLe64 v

/-- `deser`: the counter of an 8-byte form (R9, R40, R56). -/
def deser : CtrOrder → Vector Byte 8 → Word64
  | .big, b => valBe64 b
  | .little, b => valLe64 b

/-- The 20 bytes of a digest, `H[0]` first, each word most significant byte first (R37). -/
def digestBytes (h : Vector Word 5) : Vector Byte 20 :=
  bytesBe32 h[0] ++ bytesBe32 h[1] ++ bytesBe32 h[2] ++ bytesBe32 h[3] ++ bytesBe32 h[4]

end Sys2Proof.Machine
end

