-- ==== Sys2Proof/Machine/Ops.lean ====
section
/-! DEFINITION. The named operations every meaning is built from: the view of `COUNT`, answering a command, the halted
state, taking a fault and leaving it, and the host's side of the port. -/

namespace Sys2Proof.Machine

/-- What a step answers. -/
abbrev Result := Host.Outcome State Fault Refusal

/-! ### `COUNT` (R18) -/

/-- `COUNT = COUNT_HI * 2^32 + COUNT_LO` (R18). -/
def engineCount (e : Engine) : Word64 := e.countHi ++ e.countLo

/-- `COUNT <- v`: `COUNT_HI <- v[63:32]; COUNT_LO <- v[31:0]` (R18). -/
def setCount (e : Engine) (v : Word64) : Engine :=
  { e with countHi := v.extractLsb' 32 32, countLo := v.extractLsb' 0 32 }

/-! ### Answering a command (30_encoding R51) -/

/-- The response frame `STATUS ‖ RLEN ‖ RPAYLOAD` (R51). -/
def responseFrame (st : Status) (payload : List Byte) : List Byte :=
  statusCode st :: (lengthBytes payload.length ++ payload)

/-- The state once the command has answered with this response. -/
def answered (st : Status) (payload : List Byte) (s : State) : State :=
  { s with host := { s.host with outbox := s.host.outbox ++ [responseFrame st payload] } }

/-- `respond(status, payload)`: the command ends with this response (R10, R51). -/
def respond (st : Status) (payload : List Byte) (s : State) : Result := .next (answered st payload s)

/-! ### The halted state (60_exceptions R130) -/

/-- A command that is refused while `FAULT = 1`: HALTED, and nothing changes; otherwise it runs (R130, R132 item 1). -/
def unlessHalted (s : State) (run : State → Result) : Result :=
  if s.ctl.fault then respond .halted [] s else run s

/-- The opcode bytes that are not refused while halted (R49 step 1, R119). -/
def acceptedWhenHalted (op : Byte) : Bool :=
  op == opcodeByte .coreReset || op == opcodeByte .coreStatus

/-! ### Taking a fault and leaving it (60_exceptions R129, R131) -/

/-- The three registers that fault entry writes (R129). -/
def recordFault (op : Opcode) (cause : FaultCause) (s : State) : State :=
  { s with ctl := { s.ctl with fault := true, fcause := some cause, fop := opcodeByte op } }

/-- `raise Fault(cause)` in the command `op`: the fault registers are written and nothing else, and the command answers
`0x80 + cause` (R129). -/
def raiseFault (op : Opcode) (cause : FaultCause) (s : State) : Result :=
  respond (.faulted cause) [] (recordFault op cause s)

/-- Every item of the core's state to its reset value (R31, R120, R141): the only way out of the halted state (R131). The
configuration and the host's side of the port are not the core's state and stay (R32). -/
def resetCore (s : State) : State :=
  { State.resetWith s.config with host := s.host }

/-- An UPDATE or FINAL command of the family that owns the engine in phase `own`: the phase check comes before every other
write (R129), then the command runs. -/
def inPhase (own : Phase) (op : Opcode) (s : State) (run : State → Result) : Result :=
  match phaseCheck own s.ctl.phase with
  | some cause => raiseFault op cause s
  | none => run s

/-- `PHASE <- p` (R10, R26). -/
def setPhase (p : Phase) (s : State) : State :=
  { s with ctl := { s.ctl with phase := p } }

/-! ### The command port (00_scope R6, 30_encoding R49, 70 R141) -/

/-- The state once the host has handed over its next input, `rest` being what it has left. -/
def takeInput (rest : List HostInput) (s : State) : State :=
  { s with host := { s.host with inbox := rest } }

/-- Nothing is handed over: the core never acts on its own (R6); it is idle and holds its state (R140). -/
def idle (s : State) : Result := .next s

/-- The reset event: the reset state; no command ran, so nothing is answered (R141, R142). -/
def resetEvent (s : State) : Result := .next (resetCore s)

/-- A frame that decodes to no command (R49 steps 1 to 4). Bytes that are no frame have no run (R48, 93 U12); a frame is
answered HALTED if the core is halted and the opcode is neither `CORE_RESET` nor `CORE_STATUS`, and `IllegalCommand`
otherwise; no state changes (R54, R127, R130). -/
def rejectFrame (frame : List Byte) (e : DecodeError) (s : State) : Result :=
  match e with
  | .notAFrame => .refused .notAFrame
  | _ =>
    if s.ctl.fault && !acceptedWhenHalted (frame.headD 0#8) then respond .halted [] s
    else respond .illegalCommand [] s

end Sys2Proof.Machine
end

