-- ==== Sys2Proof/Machine/Formatter.lean ====
section
/-! DEFINITION. The OTP formatter (42_otp_formatter): `Truncate`, `Reduce`, `Checksum`, `Render` and the command `OTP_FORMAT`. It
reads no register and writes none (R95); its arithmetic is on non-negative integers and nothing wraps (R103). -/

namespace Sys2Proof.Machine

/-- `offset`: the low nibble of byte 19 (R96). -/
def truncOffset (hmac : Vector Byte 20) : Nat := (hmac[19] &&& 0x0F#8).toNat

/-- The offset is at most 15, so the window ends inside the 20 bytes (R34, R96). -/
theorem truncOffset_le (hmac : Vector Byte 20) : truncOffset hmac ≤ 15 := by
  unfold truncOffset
  rw [BitVec.toNat_and]
  exact Nat.and_le_right

/-- `Truncate(hmac)`: the window of four bytes at `offset`, bit 7 of its first byte dropped (R39, R96). -/
def truncate (hmac : Vector Byte 20) : Nat :=
  have h := truncOffset_le hmac
  (hmac[truncOffset hmac] &&& 0x7F#8).toNat * 2 ^ 24
    + hmac[truncOffset hmac + 1].toNat * 2 ^ 16
    + hmac[truncOffset hmac + 2].toNat * 2 ^ 8
    + hmac[truncOffset hmac + 3].toNat

/-- `MODULUS` (R7). -/
def modulus : Nat := 10000000

/-- `Reduce(P)` (R97). -/
def reduce (p : Nat) : Nat := p % modulus

/-- `DD`, the doubling table (R7, R98). -/
def doubled (d : Nat) : Nat := [0, 2, 4, 6, 8, 1, 3, 5, 7, 9].getD d 0

/-- The digit `d_k` of a seven-digit number, `d_1` the most significant (R98). -/
def codeDigit (c k : Nat) : Nat := c / 10 ^ (7 - k) % 10

/-- The sum of the seven transformed digits: positions 1, 3, 5, 7 through the table (R98). -/
def digitSum (c : Nat) : Nat :=
  doubled (codeDigit c 1) + codeDigit c 2 + doubled (codeDigit c 3) + codeDigit c 4
    + doubled (codeDigit c 5) + codeDigit c 6 + doubled (codeDigit c 7)

/-- `Checksum(codeDigits)` (R98). -/
def checksum (c : Nat) : Nat := (10 - digitSum c % 10) % 10

/-- A decimal digit as an ASCII byte (R57, R102). -/
def asciiDigit (d : Nat) : Byte := BitVec.ofNat 8 (0x30 + d)

/-- `Render(codeDigits, checksum)`: eight ASCII digits, most significant first, zero-padded (R102). -/
def render (c check : Nat) : Vector Byte 8 :=
  Vector.ofFn fun i => asciiDigit ((c * 10 + check) / 10 ^ (7 - i.val) % 10)

/-- The four steps in order (R99, R100). -/
def formatCode (hmac : Vector Byte 20) : Vector Byte 8 :=
  let c := reduce (truncate hmac)
  render c (checksum c)

/-- `OTP_FORMAT hmac`: legal in every phase, writes no state (R99, R101). -/
def execOtpFormat (hmac : Vector Byte 20) (s : State) : Result :=
  unlessHalted s fun s => respond .ok (formatCode hmac).toList s

end Sys2Proof.Machine
end

