-- ==== Sys2Proof/Machine/Sha1.lean ====
section
/-! DEFINITION. The SHA-1 engine (40_sha1_engine): the procedures `EngineInit`, `EngineAbsorb`, `Compress`, `EngineFinish` and
the commands `SHA1_INIT`, `SHA1_UPDATE`, `SHA1_FINAL`. -/

namespace Sys2Proof.Machine

/-! ### The block processor (R68 to R73) -/

/-- `rotl32(x, n) = ((x << n) OR (x >> (32-n))) mod 2^32` (R9). -/
def rotl32 (x : Word) (n : Nat) : Word := (x <<< n) ||| (x >>> (32 - n))

/-- The first sixteen schedule words, each four bytes most significant first (R36, R68). -/
def blockWords (block : Vector Byte 64) : List Word :=
  List.ofFn fun j : Fin 16 => be32 block[4 * j.val] block[4 * j.val + 1] block[4 * j.val + 2] block[4 * j.val + 3]

/-- `W[i] = rotl32(W[i-3] XOR W[i-8] XOR W[i-14] XOR W[i-16], 1)`, where `i` is the number of words so far (R68). -/
def nextWord (w : List Word) : Word :=
  let i := w.length
  rotl32 (w.getD (i - 3) 0#32 ^^^ w.getD (i - 8) 0#32 ^^^ w.getD (i - 14) 0#32 ^^^ w.getD (i - 16) 0#32) 1

/-- `n` more words of the schedule (R68). -/
def extendSchedule : Nat → List Word → List Word
  | 0, w => w
  | n + 1, w => extendSchedule n (w ++ [nextWord w])

/-- The message schedule `W[0..79]` (R68). -/
def schedule (block : Vector Byte 64) : List Word := extendSchedule 64 (blockWords block)

/-- The round constant of round `t`, `K[t div 20]` (R69). -/
def roundConstant (t : Nat) : Word :=
  if t < 20 then 0x5A827999#32
  else if t < 40 then 0x6ED9EBA1#32
  else if t < 60 then 0x8F1BBCDC#32
  else 0xCA62C1D6#32

/-- The round function of round `t`, `f(t div 20; b, c, d)` (R70). -/
def roundFunction (t : Nat) (b c d : Word) : Word :=
  if t < 20 then (b &&& c) ||| (~~~b &&& d)
  else if t < 40 then b ^^^ c ^^^ d
  else if t < 60 then (b &&& c) ||| (b &&& d) ||| (c &&& d)
  else b ^^^ c ^^^ d

/-- The five working variables (R19, R71). -/
structure Vars where
  a : Word
  b : Word
  c : Word
  d : Word
  e : Word
deriving DecidableEq, Repr

/-- One round: the six assignments use the values from before the round (R71). -/
def round (t : Nat) (w : Word) (v : Vars) : Vars where
  a := rotl32 v.a 5 + roundFunction t v.b v.c v.d + v.e + roundConstant t + w
  b := v.a
  c := rotl32 v.b 30
  d := v.c
  e := v.d

/-- Rounds `0 .. n-1` on the schedule `w` (R71, R72). -/
def rounds (w : List Word) : Nat → Vars → Vars
  | 0, v => v
  | n + 1, v => round n (w.getD n 0#32) (rounds w n v)

/-- `a <- H[0]; ...; e <- H[4]` (R72). -/
def startVars (h : Vector Word 5) : Vars := { a := h[0], b := h[1], c := h[2], d := h[3], e := h[4] }

/-- `Compress` as the function from five words and a block to five words (R72). It is unfolded by name only, so that no check by
unfolding runs eighty rounds by accident. -/
@[irreducible] def compress (h : Vector Word 5) (block : Vector Byte 64) : Vector Word 5 :=
  let v := rounds (schedule block) 80 (startVars h)
  #v[h[0] + v.a, h[1] + v.b, h[2] + v.c, h[3] + v.d, h[4] + v.e]

/-! ### Initialising and absorbing (R64, R66) -/

/-- `EngineInit`: it reads no state (R64). -/
def engineInit : Engine where
  h := Config.iv
  buf := Vector.replicate 64 0x00#8
  bufLen := 0
  countHi := 0#32
  countLo := 0#32

/-- One byte of `EngineAbsorb`: stored at `BUF[BUFLEN]`, counted, and the block compressed when it is the 64th; `BUF` is left
as it is (R66, R30). -/
def absorbByte (e : Engine) (b : Byte) : Engine :=
  let buf := e.buf.set e.bufLen b
  let e' := setCount { e with buf := buf } (engineCount e + 8#64)
  if h : e.bufLen.val + 1 < 64 then { e' with bufLen := ⟨e.bufLen.val + 1, h⟩ }
  else { e' with h := compress e.h buf, bufLen := 0 }

/-- `EngineAbsorb(data)` (R66). -/
def engineAbsorb (e : Engine) (data : List Byte) : Engine := data.foldl absorbByte e

/-! ### Padding and the digest (R74, R75) -/

/-- `BUF` after `BUF[n] <- 0x80` and zeros from `n+1` to 63 (R75). -/
def padBuffer (buf : Vector Byte 64) (n : Nat) : Vector Byte 64 :=
  Vector.ofFn fun i => if i.val < n then buf[i] else if i.val = n then 0x80#8 else 0x00#8

/-- `BUF` after `BUF[56..64) <- bytes_be64(COUNT)` (R38, R75). -/
def putLength (buf : Vector Byte 64) (count : Word64) : Vector Byte 64 :=
  Vector.ofFn fun i => if h : i.val < 56 then buf[i] else (bytesBe64 count)[i.val - 56]

/-- `EngineFinish` up to its last compression: the digest words and the buffer before it (R75). -/
def padEngine (e : Engine) : Engine :=
  let padded := padBuffer e.buf e.bufLen.val
  if 56 ≤ e.bufLen.val then
    { e with h := compress e.h padded, buf := putLength (Vector.replicate 64 0x00#8) (engineCount e) }
  else { e with buf := putLength padded (engineCount e) }

/-- `EngineFinish`: the engine it leaves, `H` holding the digest and `BUF` the last block (R75). -/
def engineFinish (e : Engine) : Engine :=
  let p := padEngine e
  { p with h := compress p.h p.buf }

/-- The 20 bytes that `EngineFinish` returns (R75, R37). -/
def finishDigest (e : Engine) : Vector Byte 20 := digestBytes (engineFinish e).h

/-! ### The commands -/

/-- `SHA1_INIT` (R65). -/
def execSha1Init (s : State) : Result :=
  unlessHalted s fun s => respond .ok [] (setPhase .shaActive { s with engine := engineInit })

/-- `SHA1_UPDATE data` (R67). -/
def execSha1Update (data : List Byte) (s : State) : Result :=
  unlessHalted s fun s => inPhase .shaActive .sha1Update s fun s =>
    respond .ok [] { s with engine := engineAbsorb s.engine data }

/-- `SHA1_FINAL` (R76). -/
def execSha1Final (s : State) : Result :=
  unlessHalted s fun s => inPhase .shaActive .sha1Final s fun s =>
    respond .ok (finishDigest s.engine).toList (setPhase .done { s with engine := engineFinish s.engine })

end Sys2Proof.Machine
end

