-- ==== Sys2Proof/Machine/Hmac.lean ====
section
/-! DEFINITION. The HMAC-SHA1 wrapper (41_hmac_sha1): key normalisation, the two pads, the two hashes on the one engine, and
the commands `HMAC_INIT`, `HMAC_UPDATE`, `HMAC_FINAL`. -/

namespace Sys2Proof.Machine

/-- `IPAD` (R7, R84, R89). -/
def ipadByte : Byte := 0x36#8

/-- `OPAD` (R7, R87, R89). -/
def opadByte : Byte := 0x5C#8

/-- `KEYMAX`, the longest key used unhashed (R7, R84). -/
def keyMax : Nat := 64

/-- `KEY ⊕ c`: every byte xored with the constant (R8, R89). -/
def xorPad (key : Vector Byte 64) (c : Byte) : Vector Byte 64 :=
  Vector.ofFn fun i => key[i] ^^^ c

/-- `KEY` and `KEYLEN` for a key `k` of at most 64 bytes, right-padded with zeros (R84). -/
def keyContext (k : List Byte) (h : k.length ≤ keyMax) : HmacContext where
  key := Vector.ofFn fun i => k.getD i.val 0x00#8
  keyLen := ⟨k.length, by unfold keyMax at h; omega⟩

/-- The digest that one engine gives of a whole byte sequence: `EngineInit`, `EngineAbsorb`, `EngineFinish` (R84). -/
def hashWith (m : List Byte) : Vector Byte 20 := finishDigest (engineAbsorb engineInit m)

/-- The HMAC context of `HmacStart(key)`: a key of more than 64 bytes is hashed down to 20 first (R84). -/
def startContext (key : List Byte) : HmacContext :=
  if h : key.length ≤ keyMax then keyContext key h
  else keyContext (hashWith key).toList (by simp [keyMax])

/-- The engine of `HmacStart(key)`: freshly initialised, the inner pad absorbed (R84). Unfolded by name only, like
`compress`. -/
@[irreducible] def startEngine (key : List Byte) : Engine :=
  engineAbsorb engineInit (xorPad (startContext key).key ipadByte).toList

/-- `HmacStart(key)`: it writes `KEY`, `KEYLEN` and the engine, all from `key` alone (R84). -/
def hmacStart (key : List Byte) (s : State) : State :=
  { s with engine := startEngine key, hmac := startContext key }

/-- The engine of `HmacFinish` just before its last `EngineFinish`: the outer pad and the inner digest absorbed (R87).
Unfolded by name only, like `compress`. -/
@[irreducible] def outerEngine (ctx : HmacContext) (e : Engine) : Engine :=
  engineAbsorb (engineAbsorb engineInit (xorPad ctx.key opadByte).toList) (finishDigest e).toList

/-- `HmacFinish`: the engine it leaves; `KEY` and `KEYLEN` are only read (R87). -/
def hmacFinish (ctx : HmacContext) (e : Engine) : Engine := engineFinish (outerEngine ctx e)

/-- The 20 bytes that `HmacFinish` returns (R87). -/
def finishMac (ctx : HmacContext) (e : Engine) : Vector Byte 20 := finishDigest (outerEngine ctx e)

/-! ### The commands -/

/-- `HMAC_INIT key` (R85). -/
def execHmacInit (key : List Byte) (s : State) : Result :=
  unlessHalted s fun s => respond .ok [] (setPhase .hmacActive (hmacStart key s))

/-- `HMAC_UPDATE data` (R86). -/
def execHmacUpdate (data : List Byte) (s : State) : Result :=
  unlessHalted s fun s => inPhase .hmacActive .hmacUpdate s fun s =>
    respond .ok [] { s with engine := engineAbsorb s.engine data }

/-- `HMAC_FINAL` (R88). -/
def execHmacFinal (s : State) : Result :=
  unlessHalted s fun s => inPhase .hmacActive .hmacFinal s fun s =>
    respond .ok (finishMac s.hmac s.engine).toList
      (setPhase .done { s with engine := hmacFinish s.hmac s.engine })

end Sys2Proof.Machine
end

