-- ==== Sys2Proof/Machine/Generator.lean ====
section
/-! DEFINITION. The OTP generator (43_otp_generator): construction, the secret and counter accessors, `GenCode`, and the current
and next code. -/

namespace Sys2Proof.Machine

/-! ### Construction and the accessors -/

/-- A supplied secret is shorter than 20 bytes (R106, R108, R125). -/
def secretTooShort (secret : List Byte) : Bool := secret.length < Config.secretMin

/-- A supplied counter is below 1, that is 0 (R106, R126). -/
def counterTooSmall (counter : Word64) : Bool := counter.toNat < 1

/-- The generator that a successful construction makes: an absent operand takes its default (R106). -/
def constructed (secret : Option (List Byte)) (counter : Option Word64) : Generator where
  secret := secret.getD Config.defaultSecret
  counter := counter.getD Config.counterDefault
  defsec := secret.isNone

/-- `GEN_CONSTRUCT [secret] [counter]`: both checks come before any write, the secret's first (R106, R132 item 5). -/
def execGenConstruct (secret : Option (List Byte)) (ctr : Option (Vector Byte 8)) (s : State) : Result :=
  unlessHalted s fun s =>
    let counter := ctr.map (deser s.config.ctrOrder)
    if secret.any secretTooShort then respond .invalidSecret [] s
    else if counter.any counterTooSmall then respond .invalidCounter [] s
    else respond .ok [] { s with gen := constructed secret counter }

/-- `GEN_SET_SECRET secret` (R108). -/
def execGenSetSecret (secret : List Byte) (s : State) : Result :=
  unlessHalted s fun s =>
    if secretTooShort secret then respond .invalidSecret [] s
    else respond .ok [] { s with gen := { s.gen with secret := secret, defsec := false } }

/-- `COUNTER <- v` (R10). -/
def setCounter (v : Word64) (s : State) : State := { s with gen := { s.gen with counter := v } }

/-- `GEN_SET_COUNTER bytes8`: any value is stored, 0 among them (R109). -/
def execGenSetCounter (bytes : Vector Byte 8) (s : State) : Result :=
  unlessHalted s fun s => respond .ok [] (setCounter (deser s.config.ctrOrder bytes) s)

/-- `GEN_GET_COUNTER` (R110). -/
def execGenGetCounter (s : State) : Result :=
  unlessHalted s fun s => respond .ok (ser s.config.ctrOrder s.gen.counter).toList s

/-! ### Codes -/

/-- The engine of `GenCode` once the counter is absorbed (R111). -/
def codeEngine (s : State) : Engine :=
  engineAbsorb (startEngine s.gen.secret) (ser s.config.ctrOrder s.gen.counter).toList

/-- `GenCode`: the state it leaves; `SECRET` and `COUNTER` are only read (R111). -/
def genCode (s : State) : State :=
  { hmacStart s.gen.secret s with engine := hmacFinish (startContext s.gen.secret) (codeEngine s) }

/-- The eight bytes that `GenCode` returns (R111). -/
def genCodeBytes (s : State) : Vector Byte 8 :=
  formatCode (finishMac (startContext s.gen.secret) (codeEngine s))

/-- The common end of `GEN_CURRENT` and `GEN_NEXT`: the code of the present counter, and `PHASE <- DONE` (R112, R113). -/
def answerCode (s : State) : Result :=
  respond .ok (genCodeBytes s).toList (setPhase .done (genCode s))

/-- `GEN_CURRENT`: the counter is not advanced (R112). -/
def execGenCurrent (s : State) : Result := unlessHalted s answerCode

/-- `GEN_NEXT`: the increment comes first and wraps modulo 2^64 (R113, R114). -/
def execGenNext (s : State) : Result :=
  unlessHalted s fun s => answerCode (setCounter (s.gen.counter + 1#64) s)

end Sys2Proof.Machine
end

