-- ==== Sys2Proof/Machine/System.lean ====
section
/-! DEFINITION. The system commands (44_system): `CORE_RESET` and `CORE_STATUS`, the only two accepted while halted (R119). -/

namespace Sys2Proof.Machine

/-- `CORE_RESET`: accepted in every phase and when halted (R120). -/
def execCoreReset (s : State) : Result := respond .ok [] (resetCore s)

/-- `CORE_STATUS`: three bytes, no write; accepted when halted (R121). -/
def execCoreStatus (s : State) : Result :=
  respond .ok [statusByte s, fcauseCode s.ctl.fcause, s.ctl.fop] s

end Sys2Proof.Machine
end

