-- ==== Sys2Proof/Machine/Dispatch.lean ====
section
/-! DEFINITION. One arm per command: each is one direct call of its meaning. -/

namespace Sys2Proof.Machine

/-- The effect of a decoded command (00_scope R11), all checks of 60_exceptions R132 from the phase check on included. -/
def exec (i : Instr) (s : State) : Host.Outcome State Fault Refusal :=
  match i with
  -- system (44_system)
  | .coreReset => Sys2Proof.Machine.execCoreReset s
  | .coreStatus => Sys2Proof.Machine.execCoreStatus s
  -- SHA-1 engine (40_sha1_engine)
  | .sha1Init => Sys2Proof.Machine.execSha1Init s
  | .sha1Update data => Sys2Proof.Machine.execSha1Update data s
  | .sha1Final => Sys2Proof.Machine.execSha1Final s
  -- HMAC wrapper (41_hmac_sha1)
  | .hmacInit key => Sys2Proof.Machine.execHmacInit key s
  | .hmacUpdate data => Sys2Proof.Machine.execHmacUpdate data s
  | .hmacFinal => Sys2Proof.Machine.execHmacFinal s
  -- OTP formatter (42_otp_formatter)
  | .otpFormat hmac => Sys2Proof.Machine.execOtpFormat hmac s
  -- OTP generator (43_otp_generator)
  | .genConstruct secret ctr => Sys2Proof.Machine.execGenConstruct secret ctr s
  | .genSetSecret secret => Sys2Proof.Machine.execGenSetSecret secret s
  | .genSetCounter bytes => Sys2Proof.Machine.execGenSetCounter bytes s
  | .genGetCounter => Sys2Proof.Machine.execGenGetCounter s
  | .genCurrent => Sys2Proof.Machine.execGenCurrent s
  | .genNext => Sys2Proof.Machine.execGenNext s

end Sys2Proof.Machine
end

