-- ==== Sys2Proof/Machine/Step.lean ====
section
/-! DEFINITION. One step: the host's next input is handed to the core, which executes it whole (00_scope R5, R11). -/

namespace Sys2Proof.Machine

/-- One step (R11): the next command frame is decoded (R49) and executed, or the reset event happens (R141), or, with nothing
handed over, the core is idle. -/
def step (s : State) : Host.Outcome State Fault Refusal :=
  match s.host.inbox with
  | [] => idle s
  | .reset :: rest => resetEvent (takeInput rest s)
  | .command frame :: rest =>
    match decode frame with
    | .ok i => exec i (takeInput rest s)
    | .error e => rejectFrame frame e (takeInput rest s)

/-- `s` with the table's word `w` (see `tableFrame`) as the command that the next step runs: it is put first in the host's
inbox, and nothing else changes. -/
def State.withFetchWord (s : State) (nbits w : Nat) : State :=
  { s with host := { s.host with inbox := .command (tableFrame nbits w) :: s.host.inbox } }

end Sys2Proof.Machine
end

