-- ==== Sys2Proof/Machine/Functions.lean ====
section
/-! DEFINITION. The pure functions that statements about the core use (00_scope R12): the padding function and `SHA1` over whole
messages (R78, R79), `HMAC` (R91), `OTP` (R100) and `CODE`. No command calls `sha1` or `hmacSha1`: the commands work byte
by byte on the engine, and that they compute these functions is to be shown (R80, R92, R116). -/

namespace Sys2Proof.Machine

/-- `pad(m) = m ‖ 0x80 ‖ zeros(z) ‖ bytes_be64((8 * L) mod 2^64)` with `z = (55 - L) mod 64` (R78). The residue is written
with a multiple of 64 added before `L` is taken off, since it is a non-negative remainder (R9). -/
def padMessage (m : List Byte) : List Byte :=
  m ++ [0x80#8] ++ List.replicate ((55 + 64 * m.length - m.length) % 64) 0x00#8
    ++ (bytesBe64 (BitVec.ofNat 64 (8 * m.length))).toList

/-- The `i`-th 64-byte block of a byte sequence, counted from 0 (R77). -/
def blockAt (bytes : List Byte) (i : Nat) : Vector Byte 64 :=
  Vector.ofFn fun j => bytes.getD (64 * i + j.val) 0x00#8

/-- The chaining value after `n` blocks of a byte sequence, from the words `h` (R77). -/
def chain (h : Vector Word 5) (bytes : List Byte) : Nat → Vector Word 5
  | 0 => h
  | n + 1 => compress (chain h bytes n) (blockAt bytes n)

/-- `N = (L + 8) div 64 + 1`, the number of blocks of a padded message (R78). -/
def blockCount (len : Nat) : Nat := (len + 8) / 64 + 1

/-- `SHA1(m)` (R79). -/
def sha1 (m : List Byte) : Vector Byte 20 :=
  digestBytes (chain Config.iv (padMessage m) (blockCount m.length))

/-- `k'`: the key, or its digest if it is longer than 64 bytes (R91). -/
def normalKey (k : List Byte) : List Byte := if 64 < k.length then (sha1 k).toList else k

/-- `K = k' ‖ zeros(64 - len(k'))` (R91). -/
def paddedKey (k : List Byte) : List Byte :=
  normalKey k ++ List.replicate (64 - (normalKey k).length) 0x00#8

/-- `HMAC(k, m) = SHA1((K ⊕ 0x5C) ‖ SHA1((K ⊕ 0x36) ‖ m))` (R91). -/
def hmacSha1 (k m : List Byte) : Vector Byte 20 :=
  sha1 ((paddedKey k).map (· ^^^ opadByte) ++ (sha1 ((paddedKey k).map (· ^^^ ipadByte) ++ m)).toList)

/-- `OTP(h)` (R100). -/
def otp (hmac : Vector Byte 20) : Vector Byte 8 :=
  render (reduce (truncate hmac)) (checksum (reduce (truncate hmac)))

/-- `CODE(secret, counter) = OTP(HMAC(secret, ser(counter)))` (R12). -/
def code (order : CtrOrder) (secret : List Byte) (counter : Word64) : Vector Byte 8 :=
  otp (hmacSha1 secret (ser order counter).toList)

end Sys2Proof.Machine
end

