-- ==== Sys2Proof/Safety.lean ====
section
/-! DEFINITION. What counts as a safe run, in the words the statements use: the invariants of 10_state R29, the state after reset
(R31), and the spec's own tables (R26 phases, R50 lengths, R55 malformed payloads, R128 outcomes), each copied from the spec
and not from the meanings. -/

namespace Sys2Proof.Machine

/-- `FAULT = 0`: the core is not halted (R27). -/
abbrev Running (s : State) : Prop := s.ctl.fault = false

/-- Every item of the core's state has its reset value (R31). -/
structure IsResetCore (s : State) : Prop where
  h : s.engine.h = #v[0x67452301#32, 0xEFCDAB89#32, 0x98BADCFE#32, 0x10325476#32, 0xC3D2E1F0#32]
  buf : ∀ i : Fin 64, s.engine.buf[i] = 0x00#8
  bufLen : s.engine.bufLen.val = 0
  countHi : s.engine.countHi = 0x00000000#32
  countLo : s.engine.countLo = 0x00000000#32
  key : ∀ i : Fin 64, s.hmac.key[i] = 0x00#8
  keyLen : s.hmac.keyLen.val = 0
  secret : s.gen.secret = (List.range 20).map fun k => BitVec.ofNat 8 (0x30 + k)
  counter : s.gen.counter = 0x0000000000000001#64
  defsec : s.gen.defsec = true
  phase : s.ctl.phase = .shaActive
  fault : s.ctl.fault = false
  fcause : s.ctl.fcause = none
  fop : s.ctl.fop = 0x00#8

/-- The invariants that hold between any two commands (R29), and `FOP = 0` when no command has faulted (R27). Item 1 and the
first half of item 4 are in the types. Item 5's `COUNT ≥ 512` is left out: it does not survive a wrap of `COUNT`
(log entry 6). -/
structure Inv (s : State) : Prop where
  /-- Item 2: while the engine is open, `BUFLEN = (COUNT div 8) mod 64` and `COUNT` is a whole number of bytes. -/
  counted : s.ctl.phase ≠ .done →
    s.engine.bufLen.val = (engineCount s.engine).toNat / 8 % 64 ∧ (engineCount s.engine).toNat % 8 = 0
  /-- Item 3: `20 ≤ SECLEN`. -/
  secretLong : 20 ≤ s.gen.secret.length
  /-- Item 3: `SECLEN ≤ SECRET_MAX`. -/
  secretFits : s.gen.secret.length ≤ 65535
  /-- Item 4: `FAULT = 0` exactly when `FCAUSE = 0`. -/
  causeKnown : s.ctl.fault = false ↔ s.ctl.fcause = none
  /-- R27: `FOP` is 0 when no command has faulted. -/
  fopZero : s.ctl.fault = false → s.ctl.fop = 0x00#8
  /-- Item 5: while the HMAC is open, `KEY[KEYLEN..64)` is all zero. -/
  keyPadded : s.ctl.phase = .hmacActive → ∀ i : Fin 64, s.hmac.keyLen.val ≤ i.val → s.hmac.key[i] = 0x00#8
  /-- Item 6: `DEFSEC = 1` implies `SECRET = DEFAULT_SECRET`. -/
  placeholder : s.gen.defsec = true → s.gen.secret = Config.defaultSecret

/-! ### Sequences of commands (70 R156) -/

/-- The commands executed in order, one step each. -/
def runAll : List Instr → State → Result
  | [], s => .next s
  | i :: is, s =>
    match exec i s with
    | .next t => runAll is t
    | .fault r => .fault r
    | .refused r => .refused r

/-- The commands that leave `PHASE` and the engine alone (R26, R80). -/
def leavesEngineAlone (i : Instr) : Bool :=
  (opcodeOf i) ∈ [Opcode.coreStatus, .otpFormat, .genConstruct, .genSetSecret, .genSetCounter, .genGetCounter]

/-- The data of a `SHA1_UPDATE`. -/
def sha1Chunk : Instr → Option (List Byte)
  | .sha1Update data => some data
  | _ => none

/-- The data of an `HMAC_UPDATE`. -/
def hmacChunk : Instr → Option (List Byte)
  | .hmacUpdate data => some data
  | _ => none

/-- The INIT-class and FINAL-class commands (R26). -/
def initOrFinal (op : Opcode) : Bool :=
  op ∈ [Opcode.coreReset, .sha1Init, .hmacInit, .genCurrent, .genNext, .sha1Final, .hmacFinal]

/-- The most recent INIT-class or FINAL-class command of a list (R94). -/
def lastInitOrFinal (is : List Instr) : Option Opcode :=
  ((is.map opcodeOf).filter initOrFinal).getLast?

/-! ### The spec's tables -/

/-- What a row of the phase table says. -/
inductive PhaseMove where
  | goes (p : Phase)
  | faults (c : FaultCause)
deriving DecidableEq, Repr

/-- The phase table (R26); a command not listed leaves `PHASE` unchanged. -/
def phaseTable : Opcode → Phase → PhaseMove
  | .sha1Init, _ => .goes .shaActive
  | .sha1Update, .shaActive => .goes .shaActive
  | .sha1Update, .hmacActive => .faults .noMatchingInit
  | .sha1Update, .done => .faults .reuseAfterFinal
  | .sha1Final, .shaActive => .goes .done
  | .sha1Final, .hmacActive => .faults .noMatchingInit
  | .sha1Final, .done => .faults .reuseAfterFinal
  | .hmacInit, _ => .goes .hmacActive
  | .hmacUpdate, .shaActive => .faults .noMatchingInit
  | .hmacUpdate, .hmacActive => .goes .hmacActive
  | .hmacUpdate, .done => .faults .reuseAfterFinal
  | .hmacFinal, .shaActive => .faults .noMatchingInit
  | .hmacFinal, .hmacActive => .goes .done
  | .hmacFinal, .done => .faults .reuseAfterFinal
  | .genCurrent, _ => .goes .done
  | .genNext, _ => .goes .done
  | .coreReset, _ => .goes .shaActive
  | .coreStatus, p => .goes p
  | .otpFormat, p => .goes p
  | .genConstruct, p => .goes p
  | .genSetSecret, p => .goes p
  | .genSetCounter, p => .goes p
  | .genGetCounter, p => .goes p

/-- The bytes are a frame: the byte count is `3 + LEN` (R48). -/
def isFrame : List Byte → Bool
  | _ :: hi :: lo :: payload => payload.length == lengthField hi lo
  | _ => false

/-- The frame with this opcode byte and payload (R48). -/
def frameBytes (op : Byte) (payload : List Byte) : List Byte :=
  op :: BitVec.ofNat 8 (payload.length / 256) :: BitVec.ofNat 8 payload.length :: payload

/-- The allowed `LEN` of each command (R50). -/
def allowedLength (op : Opcode) (len : Nat) : Bool :=
  match op with
  | .sha1Update | .hmacInit | .hmacUpdate | .genSetSecret => len ≤ 65535
  | .genConstruct => 1 ≤ len && len ≤ 65535
  | .otpFormat => len == 20
  | .genSetCounter => len == 8
  | .coreReset | .coreStatus | .sha1Init | .sha1Final | .hmacFinal | .genGetCounter | .genCurrent | .genNext => len == 0

/-- A malformed `GEN_CONSTRUCT` payload, in the words of R55: no `FLAGS`; `FLAGS[7:2] ≠ 0`; `HAS_COUNTER = 1` and `LEN < 9`; or
`HAS_SECRET = 0` and bytes remain after `FLAGS` and `CTR`. -/
def malformedPayload : List Byte → Bool
  | [] => true
  | flags :: rest =>
    let bit0 := flags.toNat % 2
    let bit1 := flags.toNat / 2 % 2
    4 ≤ flags.toNat || (bit1 == 1 && rest.length + 1 < 9) || (bit0 == 0 && 8 * bit1 < rest.length)

/-- The length of the response payload when a command ends `OK` (R51). -/
def responseLength : Opcode → Nat
  | .sha1Final | .hmacFinal => 20
  | .otpFormat | .genCurrent | .genNext | .genGetCounter => 8
  | .coreStatus => 3
  | .coreReset | .sha1Init | .sha1Update | .hmacInit | .hmacUpdate | .genConstruct | .genSetSecret | .genSetCounter => 0

/-- How a decoded command can end (R128): the outcomes of the table, and `HALTED` for every command but the first row's.
`IllegalCommand` is the decoder's and no decoded command ends so. -/
def canEnd : Opcode → Status → Bool
  | _, .ok => true
  | _, .illegalCommand => false
  | .coreReset, .halted | .coreStatus, .halted => false
  | _, .halted => true
  | .sha1Update, .faulted _ | .sha1Final, .faulted _ | .hmacUpdate, .faulted _ | .hmacFinal, .faulted _ => true
  | _, .faulted _ => false
  | .genConstruct, .invalidSecret | .genSetSecret, .invalidSecret => true
  | _, .invalidSecret => false
  | .genConstruct, .invalidCounter => true
  | _, .invalidCounter => false

/-- The operand validation of the generator's commands, the secret's before the counter's (R132 item 5). -/
def operandCheck (order : CtrOrder) : Instr → Status
  | .genConstruct (some secret) none => if secret.length < 20 then .invalidSecret else .ok
  | .genConstruct (some secret) (some ctr) =>
    if secret.length < 20 then .invalidSecret else if deser order ctr = 0#64 then .invalidCounter else .ok
  | .genConstruct none (some ctr) => if deser order ctr = 0#64 then .invalidCounter else .ok
  | .genSetSecret secret => if secret.length < 20 then .invalidSecret else .ok
  | _ => .ok

/-- The outcome of a frame, by the order of checks (R132): the first that applies decides. -/
def outcomeOf (s : State) (frame : List Byte) : Status :=
  if s.ctl.fault = true ∧ frame.headD 0#8 ≠ 0x00#8 ∧ frame.headD 0#8 ≠ 0x01#8 then .halted
  else
    match decode frame with
    | .error _ => .illegalCommand
    | .ok i =>
      match phaseTable (opcodeOf i) s.ctl.phase with
      | .faults c => .faulted c
      | .goes _ => operandCheck s.config.ctrOrder i

/-! ### What cannot be observed -/

/-- Two engines that differ at most in bytes of `BUF` at and beyond `BUFLEN` (R16, R30). -/
structure SameLiveBytes (a b : Engine) : Prop where
  h : a.h = b.h
  bufLen : a.bufLen = b.bufLen
  countHi : a.countHi = b.countHi
  countLo : a.countLo = b.countLo
  buf : ∀ i : Fin 64, i.val < a.bufLen.val → a.buf[i] = b.buf[i]

/-- Two states that no command is to tell apart (R30): stale bytes of `BUF`, `KEY` and `KEYLEN` outside `HMAC_ACTIVE`, and the
whole engine in `DONE` may differ. -/
structure SameVisible (s t : State) : Prop where
  gen : s.gen = t.gen
  ctl : s.ctl = t.ctl
  config : s.config = t.config
  host : s.host = t.host
  engine : s.ctl.phase ≠ .done → SameLiveBytes s.engine t.engine
  hmac : s.ctl.phase = .hmacActive → s.hmac = t.hmac

/-- Two states that agree in all but `SECRET`, the engine, `KEY` and `KEYLEN` (R135). -/
structure SameButHidden (s t : State) : Prop where
  counter : s.gen.counter = t.gen.counter
  defsec : s.gen.defsec = t.gen.defsec
  ctl : s.ctl = t.ctl
  config : s.config = t.config
  host : s.host = t.host

/-! ### Frames and the halted state, for the statements about one command -/

/-- A frame that is answered `IllegalCommand` with no state change, by a running core, and by a halted one too if the opcode
is `CORE_RESET`'s or `CORE_STATUS`'s (R49, R54). -/
def AnswersIllegal (frame : List Byte) : Prop :=
  ∀ (s : State) (rest : List HostInput), s.host.inbox = .command frame :: rest →
    (Running s ∨ frame.headD 0#8 = 0x00#8 ∨ frame.headD 0#8 = 0x01#8) →
    step s = .next (answered .illegalCommand [] (takeInput rest s))

/-- The command `i` has the opcode byte `op` and `LEN = 0`; any other `LEN` is answered `IllegalCommand` (R50). -/
def TakesNoOperand (op : Byte) (i : Instr) : Prop :=
  encode i = frameBytes op [] ∧ decode (frameBytes op []) = .ok i ∧
  ∀ payload : List Byte, payload ≠ [] → payload.length ≤ 65535 → AnswersIllegal (frameBytes op payload)

/-- The command `f` has the opcode byte `op` and takes its whole payload, of any length, as its operand (R50). -/
def TakesBytes (op : Byte) (f : List Byte → Instr) : Prop :=
  ∀ data : List Byte, data.length ≤ 65535 →
    encode (f data) = frameBytes op data ∧ decode (frameBytes op data) = .ok (f data)

/-- The command `f` has the opcode byte `op` and a payload of exactly `n` bytes; any other `LEN` is answered `IllegalCommand`
(R50). -/
def TakesExactly (n : Nat) (op : Byte) (f : Vector Byte n → Instr) : Prop :=
  (∀ v : Vector Byte n, encode (f v) = frameBytes op v.toList ∧ decode (frameBytes op v.toList) = .ok (f v)) ∧
  ∀ payload : List Byte, payload.length ≠ n → payload.length ≤ 65535 → AnswersIllegal (frameBytes op payload)

/-- A halted core answers the command `HALTED` and changes nothing (R130). -/
def RefusedWhenHalted (i : Instr) : Prop :=
  ∀ s : State, s.ctl.fault = true → exec i s = .next (answered .halted [] s)

/-- The phase check of a command whose family does not own the engine in `other` (R67, R76, R86, R88, R129): in
`DONE` it faults with `ReuseAfterFinal`, in `other` with `NoMatchingInit`; the three fault registers are written, the response
is `0x80 + cause`, and nothing else changes. -/
def FaultsOutsidePhase (other : Phase) (op : Byte) (i : Instr) : Prop :=
  ∀ s : State, Running s →
    (s.ctl.phase = .done → exec i s = .next
      { s with
        ctl := { phase := .done, fault := true, fcause := some .reuseAfterFinal, fop := op }
        host := { s.host with outbox := s.host.outbox ++ [[0x81#8, 0x00#8, 0x00#8]] } }) ∧
    (s.ctl.phase = other → exec i s = .next
      { s with
        ctl := { phase := other, fault := true, fcause := some .noMatchingInit, fop := op }
        host := { s.host with outbox := s.host.outbox ++ [[0x82#8, 0x00#8, 0x00#8]] } })

end Sys2Proof.Machine
end

