-- ==== Sys2Proof/Certificates/Slice0/Obligations.lean ====
section
/-! DEFINITION. The statements for the provers. Each docstring names the rules of spec/ that the statement formalises. -/

open Sys2Proof Sys2Proof.Machine

/-! ### Reset and system commands -/

/-- R31: after reset, and after `CORE_RESET` from any state, every item of state has its reset value. -/
def Obligations.ResetLeavesSpecValues : Prop :=
  IsResetCore State.reset ∧
  (∀ c : Config, IsResetCore (State.resetWith c)) ∧
  ∀ s : State, ∃ t : State, exec .coreReset s = .next t ∧ IsResetCore t

/-- R120: `CORE_RESET` from every state, halted or not, answers OK and leaves the reset state; the host's port and the
configuration stay; a `LEN` other than 0 resets nothing; it is idempotent. -/
def Obligations.CoreResetRestoresEverything : Prop :=
  TakesNoOperand 0x00#8 .coreReset ∧
  ∀ s : State, ∃ t : State, exec .coreReset s = .next (answered .ok [] t) ∧ IsResetCore t ∧
    t.config = s.config ∧ t.host = s.host ∧ exec .coreReset t = .next (answered .ok [] t)

/-- R121: `CORE_STATUS` answers three bytes, halted or not, and writes nothing; the third is 0 while no command has faulted. -/
def Obligations.CoreStatusReportsThreeBytes : Prop :=
  TakesNoOperand 0x01#8 .coreStatus ∧
  ∀ s : State, ∃ b0 b1 b2 : Byte, exec .coreStatus s = .next (answered .ok [b0, b1, b2] s) ∧
    b0.toNat = (if s.ctl.fault then 1 else 0) * 128 + (if s.gen.defsec then 1 else 0) * 4 +
      (match s.ctl.phase with | .shaActive => 0 | .hmacActive => 1 | .done => 2) ∧
    b0.getLsbD 7 = s.ctl.fault ∧ b0.extractLsb' 3 4 = 0#4 ∧ b0.getLsbD 2 = s.gen.defsec ∧
    b1 = (match s.ctl.fcause with | none => 0#8 | some .reuseAfterFinal => 1#8 | some .noMatchingInit => 2#8) ∧
    b2 = s.ctl.fop ∧ (Inv s → Running s → b2 = 0x00#8)

/-- R141, R142: the reset event leaves the reset state, from any state. The model's choice (log entry 2): it takes one input of
the host's inbox and answers nothing. -/
def Obligations.ResetEventLeavesResetState : Prop :=
  ∀ (s : State) (rest : List HostInput), s.host.inbox = .reset :: rest →
    ∃ t : State, step s = .next t ∧ IsResetCore t ∧ t.config = s.config ∧
      t.host.inbox = rest ∧ t.host.outbox = s.host.outbox

/-- R144: which commands are legal as the first one after reset, and what they answer. -/
def Obligations.FirstCommandAfterReset : Prop :=
  ∀ s : State, IsResetCore s → ∀ i : Instr, operandCheck s.config.ctrOrder i = .ok →
    ∃ (t : State) (p : List Byte),
      (if opcodeOf i = .hmacUpdate ∨ opcodeOf i = .hmacFinal then
        exec i s = .next (answered (.faulted .noMatchingInit) [] t)
       else exec i s = .next (answered .ok p t)) ∧
      (i = .sha1Final → p = (sha1 []).toList) ∧
      (i = .genCurrent → p = (code s.config.ctrOrder Config.defaultSecret 1#64).toList)

/-! ### Encoding -/

/-- R48, R50, R53, R55: the frame of a well-formed command decodes to that command. -/
def Obligations.DecodeOfEncode : Prop :=
  ∀ i : Instr, i.wellFormed = true → decode (encode i) = .ok i

/-- R48, R50, R53, R55: a frame that decodes is the frame of the command it decodes to, and that command is well formed. -/
def Obligations.EncodeOfDecode : Prop :=
  ∀ (bytes : List Byte) (i : Instr), decode bytes = .ok i → encode i = bytes ∧ i.wellFormed = true

/-- R49, R50, R54, R55: a frame decodes exactly when its opcode is one of the table's fifteen, its `LEN` is allowed for it
and a `GEN_CONSTRUCT` payload is not malformed; 241 opcode values are reserved. -/
def Obligations.DecodesExactlyLegalFrames : Prop :=
  (∀ (op hi lo : Byte) (payload : List Byte), payload.length = lengthField hi lo →
    ((∃ i : Instr, decode (op :: hi :: lo :: payload) = .ok i) ↔
      ∃ o : Opcode, opcodeByte o = op ∧ allowedLength o payload.length = true ∧
        (o = .genConstruct → malformedPayload payload = false))) ∧
  ((List.range 256).filter fun n => (opcodeOfByte (BitVec.ofNat 8 n)).isNone).length = 241

/-- R54: a frame that decodes to no command is answered `IllegalCommand` with an empty payload, changes no state and does
not set `FAULT`; every frame either decodes and runs or is answered so. -/
def Obligations.UndecodableFramesChangeNothing : Prop :=
  ∀ (s : State) (frame : List Byte) (rest : List HostInput),
    s.host.inbox = .command frame :: rest → isFrame frame = true → Running s →
    (∃ i : Instr, decode frame = .ok i ∧ step s = exec i (takeInput rest s)) ∨
    ((∃ e : DecodeError, decode frame = .error e) ∧
      step s = .next (answered .illegalCommand [] (takeInput rest s)))

/-- R55: the fields of a `GEN_CONSTRUCT` payload that is not malformed; a malformed one is rejected by that name. -/
def Obligations.ConstructPayloadFields : Prop :=
  (∀ (flags : Byte) (rest : List Byte), rest.length + 1 ≤ 65535 → malformedPayload (flags :: rest) = false →
    ∃ (secret : Option (List Byte)) (ctr : Option (Vector Byte 8)),
      decode (frameBytes 0x40#8 (flags :: rest)) = .ok (.genConstruct secret ctr) ∧
      ctr.map Vector.toList = (if flags.getLsbD 1 then some (rest.take 8) else none) ∧
      secret = (if flags.getLsbD 0 then some (rest.drop (if flags.getLsbD 1 then 8 else 0)) else none)) ∧
  ∀ payload : List Byte, payload.length ≤ 65535 → malformedPayload payload = true →
    decode (frameBytes 0x40#8 payload) = .error .malformedConstruct

/-- R48, R50, R53, R55: frames written out byte by byte from the spec, one or more for each family, decode to the commands
they stand for. -/
def Obligations.WrittenFramesDecode : Prop :=
  decode [0x00#8, 0x00#8, 0x00#8] = .ok .coreReset ∧
  decode [0x11#8, 0x00#8, 0x03#8, 0x61#8, 0x62#8, 0x63#8] = .ok (.sha1Update [0x61#8, 0x62#8, 0x63#8]) ∧
  decode [0x22#8, 0x00#8, 0x00#8] = .ok .hmacFinal ∧
  decode (0x30#8 :: 0x00#8 :: 0x14#8 :: List.replicate 20 0xff#8) = .ok (.otpFormat (Vector.replicate 20 0xff#8)) ∧
  decode [0x40#8, 0x00#8, 0x09#8, 0x02#8, 0#8, 0#8, 0#8, 0#8, 0#8, 0#8, 0#8, 0x02#8] =
    .ok (.genConstruct none (some #v[0#8, 0#8, 0#8, 0#8, 0#8, 0#8, 0#8, 0x02#8])) ∧
  decode [0x46#8, 0x00#8, 0x00#8] = .error .reservedOpcode

/-- R11, R49: when the next input is a frame that decodes to `i`, a step is `exec i` on the state from which that input has
been taken, and nothing else is changed around it. The inbox is the model's (log entry 2). -/
def Obligations.StepRunsDecodedCommand : Prop :=
  ∀ (s : State) (frame : List Byte) (rest : List HostInput) (i : Instr),
    s.host.inbox = .command frame :: rest → decode frame = .ok i →
    step s = exec i { s with host := { s.host with inbox := rest } }

/-- R48, 93 U12: bytes that are no frame have no run. The model's choice (log entry 4): the step is refused by name. -/
def Obligations.NonFramesAreRefused : Prop :=
  ∀ (s : State) (bytes : List Byte) (rest : List HostInput),
    s.host.inbox = .command bytes :: rest → isFrame bytes = false → step s = .refused .notAFrame

/-! ### Outcomes of every command -/

/-- R51, and the table of R128: every command ends in exactly one response, whose status is one the table allows it, and whose
payload is empty unless it ended OK and returns a value; bit 7 of the status means that the core is faulted. -/
def Obligations.EveryCommandEndsAsListed : Prop :=
  ∀ (i : Instr) (s : State), ∃ (t : State) (st : Status) (p : List Byte),
    exec i s = .next t ∧
    t.host.outbox = s.host.outbox ++
      [statusCode st :: BitVec.ofNat 8 (p.length / 256) :: BitVec.ofNat 8 p.length :: p] ∧
    canEnd (opcodeOf i) st = true ∧
    p.length = (if st = .ok then responseLength (opcodeOf i) else 0) ∧
    ((statusCode st).getLsbD 7 = true → t.ctl.fault = true)

/-- R132: the first check that applies decides the outcome of a frame. -/
def Obligations.ChecksDecideInOrder : Prop :=
  ∀ (s : State) (frame : List Byte) (rest : List HostInput),
    s.host.inbox = .command frame :: rest → isFrame frame = true →
    ∃ (t : State) (p : List Byte), step s = .next t ∧
      t.host.outbox = s.host.outbox ++ [responseFrame (outcomeOf s frame) p]

/-- R26: the phase table, for every command and phase. -/
def Obligations.PhaseTableIsFollowed : Prop :=
  ∀ (i : Instr) (s : State), Running s → ∃ t : State, exec i s = .next t ∧
    match phaseTable (opcodeOf i) s.ctl.phase with
    | .goes p => t.ctl.phase = p ∧ t.ctl.fault = false
    | .faults c => t.ctl.phase = s.ctl.phase ∧ t.ctl.fault = true ∧ t.ctl.fcause = some c

/-- R123, R124, R129: where an UPDATE or FINAL faults, the three fault registers are written, the response is
`0x80 + cause`, and nothing else changes. -/
def Obligations.FaultEntryIsPrecise : Prop :=
  ∀ data : List Byte,
    FaultsOutsidePhase .hmacActive 0x11#8 (.sha1Update data) ∧ FaultsOutsidePhase .hmacActive 0x12#8 .sha1Final ∧
    FaultsOutsidePhase .shaActive 0x21#8 (.hmacUpdate data) ∧ FaultsOutsidePhase .shaActive 0x22#8 .hmacFinal

/-- R130: while `FAULT = 1` every command but `CORE_RESET` and `CORE_STATUS` answers HALTED and changes nothing, and so does
every frame with another opcode byte, malformed or reserved ones among them. -/
def Obligations.HaltedCoreRefusesEverything : Prop :=
  (∀ i : Instr, i ≠ .coreReset → i ≠ .coreStatus → RefusedWhenHalted i) ∧
  ∀ (s : State) (frame : List Byte) (rest : List HostInput),
    s.ctl.fault = true → s.host.inbox = .command frame :: rest → isFrame frame = true →
    frame.headD 0#8 ≠ 0x00#8 → frame.headD 0#8 ≠ 0x01#8 →
    step s = .next (answered .halted [] (takeInput rest s))

/-- R131: from a halted core a command, and a step, either leaves the whole reset state or leaves the engine, `KEY`, `KEYLEN`, the
generator, `PHASE`, `FAULT`, `FCAUSE` and `FOP` as they were; and only `CORE_RESET` and the reset event do the first. -/
def Obligations.OnlyResetLeavesFault : Prop :=
  (∀ (i : Instr) (s t : State), s.ctl.fault = true → exec i s = .next t →
    (i = .coreReset ∧ IsResetCore t) ∨
    (i ≠ .coreReset ∧ t.engine = s.engine ∧ t.hmac = s.hmac ∧ t.gen = s.gen ∧ t.ctl = s.ctl)) ∧
  ∀ s t : State, s.ctl.fault = true → step s = .next t →
    (IsResetCore t ∧ (s.host.inbox.head? = some .reset ∨
      s.host.inbox.head? = some (.command [0x00#8, 0x00#8, 0x00#8]))) ∨ (t.engine = s.engine ∧ t.hmac = s.hmac ∧ t.gen = s.gen ∧ t.ctl = s.ctl)

/-- 10_state R13: the "written by" column, for every command: what a command does not write keeps its value, fault entry
included. -/
def Obligations.EveryCommandsFrame : Prop :=
  ∀ (i : Instr) (s t : State), exec i s = .next t →
    t.config = s.config ∧ t.host.inbox = s.host.inbox ∧
    (opcodeOf i ∉ [.coreReset, .sha1Init, .sha1Update, .sha1Final, .hmacInit, .hmacUpdate, .hmacFinal,
      .genCurrent, .genNext] → t.engine = s.engine ∧ t.ctl = s.ctl) ∧
    (opcodeOf i = .sha1Final → t.engine.bufLen = s.engine.bufLen ∧ t.engine.countHi = s.engine.countHi ∧
      t.engine.countLo = s.engine.countLo) ∧
    (opcodeOf i ∉ [.coreReset, .hmacInit, .genCurrent, .genNext] → t.hmac = s.hmac) ∧
    (opcodeOf i ∉ [.coreReset, .genConstruct, .genSetSecret] →
      t.gen.secret = s.gen.secret ∧ t.gen.defsec = s.gen.defsec) ∧
    (opcodeOf i ∉ [.coreReset, .genConstruct, .genSetCounter, .genNext] → t.gen.counter = s.gen.counter) ∧
    (opcodeOf i ∉ [.coreReset, .sha1Update, .sha1Final, .hmacUpdate, .hmacFinal] →
      t.ctl.fault = s.ctl.fault ∧ t.ctl.fcause = s.ctl.fcause ∧ t.ctl.fop = s.ctl.fop)

/-! ### The SHA-1 engine -/

/-- R64, R65: `SHA1_INIT` from every running state: `EngineInit`, `PHASE <- SHA_ACTIVE`, OK, and nothing else. -/
def Obligations.Sha1InitRestartsEngine : Prop :=
  TakesNoOperand 0x10#8 .sha1Init ∧ RefusedWhenHalted .sha1Init ∧
  ∀ s : State, Running s → exec .sha1Init s = .next (answered .ok []
    { s with
      engine :=
        { h := #v[0x67452301#32, 0xEFCDAB89#32, 0x98BADCFE#32, 0x10325476#32, 0xC3D2E1F0#32]
          buf := Vector.replicate 64 0x00#8
          bufLen := 0
          countHi := 0x00000000#32
          countLo := 0x00000000#32 }
      ctl := { s.ctl with phase := .shaActive } })

/-- R67: `SHA1_UPDATE` in its own phase absorbs the data and answers OK, writing the engine alone: empty data changes nothing,
and `(BUFLEN + len) div 64` blocks are compressed with `(BUFLEN + len) mod 64` bytes left; outside its phase it faults and
absorbs nothing. -/
def Obligations.Sha1UpdateAbsorbs : Prop :=
  TakesBytes 0x11#8 .sha1Update ∧
  ∀ data : List Byte, RefusedWhenHalted (.sha1Update data) ∧
    FaultsOutsidePhase .hmacActive 0x11#8 (.sha1Update data) ∧
    ∀ s : State, Running s → s.ctl.phase = .shaActive →
      let e := engineAbsorb s.engine data
      exec (.sha1Update data) s = .next (answered .ok [] { s with engine := e }) ∧
      (data = [] → e = s.engine) ∧
      e.h = chain s.engine.h (s.engine.buf.toList.take s.engine.bufLen.val ++ data)
        ((s.engine.bufLen.val + data.length) / 64) ∧
      e.bufLen.val = (s.engine.bufLen.val + data.length) % 64

/-- R66: absorbing compresses every complete block of the buffered bytes followed by the new ones, keeps the rest buffered,
and adds eight to `COUNT` per byte, modulo 2^64; byte `k` of the data is the last one stored at its place of `BUF` unless a later
one falls there, and a place where no byte falls is left as it was. -/
def Obligations.AbsorbChainsCompleteBlocks : Prop :=
  ∀ (e : Engine) (data : List Byte),
    let bytes := e.buf.toList.take e.bufLen.val ++ data
    let e' := engineAbsorb e data
    e'.h = chain e.h bytes (bytes.length / 64) ∧
    e'.bufLen.val = bytes.length % 64 ∧
    e'.buf.toList.take e'.bufLen.val = bytes.drop (64 * (bytes.length / 64)) ∧
    (engineCount e').toNat = ((engineCount e).toNat + 8 * data.length) % 2 ^ 64 ∧
    (∀ k : Nat, k < data.length → data.length ≤ k + 64 →
      e'.buf.toList.getD ((e.bufLen.val + k) % 64) 0x00#8 = data.getD k 0x00#8) ∧
    ∀ i : Fin 64, (∀ k : Nat, k < data.length → (e.bufLen.val + k) % 64 ≠ i.val) → e'.buf[i] = e.buf[i]

/-- R66, R18: the two halves of `COUNT`, with the carry from the low half into the high half. -/
def Obligations.CountHalvesCarry : Prop :=
  ∀ (e : Engine) (data : List Byte),
    let bits := 8 * data.length
    let carry := (e.countLo.toNat + bits % 2 ^ 32) / 2 ^ 32
    (engineAbsorb e data).countLo.toNat = (e.countLo.toNat + bits) % 2 ^ 32 ∧
    (engineAbsorb e data).countHi.toNat = (e.countHi.toNat + bits / 2 ^ 32 + carry) % 2 ^ 32

/-- R68, R36: the message schedule. -/
def Obligations.ScheduleFollowsRecurrence : Prop :=
  ∀ block : Vector Byte 64,
    (schedule block).length = 80 ∧
    (∀ j : Fin 16, ((schedule block).getD j.val 0#32).toNat =
      block[4 * j.val].toNat * 2 ^ 24 + block[4 * j.val + 1].toNat * 2 ^ 16
        + block[4 * j.val + 2].toNat * 2 ^ 8 + block[4 * j.val + 3].toNat) ∧
    ∀ i : Nat, 16 ≤ i → i < 80 → (schedule block).getD i 0#32 =
      ((schedule block).getD (i - 3) 0#32 ^^^ (schedule block).getD (i - 8) 0#32
        ^^^ (schedule block).getD (i - 14) 0#32 ^^^ (schedule block).getD (i - 16) 0#32).rotateLeft 1

/-- R69 to R72: `Compress` starts the working variables from `H`, runs rounds 0 to 79, each with the constant and the function
of its group, and adds the variables back to `H`. -/
def Obligations.CompressRunsEightyRounds : Prop :=
  ∀ (h : Vector Word 5) (block : Vector Byte 64), ∃ a b c d e : Nat → Word,
    (a 0 = h[0] ∧ b 0 = h[1] ∧ c 0 = h[2] ∧ d 0 = h[3] ∧ e 0 = h[4]) ∧
    (∀ t : Nat, t < 80 →
      let k := [0x5A827999#32, 0x6ED9EBA1#32, 0x8F1BBCDC#32, 0xCA62C1D6#32].getD (t / 20) 0#32
      let f := match t / 20 with
        | 0 => (b t &&& c t) ||| (~~~(b t) &&& d t)
        | 2 => (b t &&& c t) ||| (b t &&& d t) ||| (c t &&& d t)
        | _ => b t ^^^ c t ^^^ d t
      a (t + 1) = (a t).rotateLeft 5 + f + e t + k + (schedule block).getD t 0#32 ∧
      b (t + 1) = a t ∧ c (t + 1) = (b t).rotateLeft 30 ∧ d (t + 1) = c t ∧ e (t + 1) = d t) ∧
    compress h block = #v[h[0] + a 80, h[1] + b 80, h[2] + c 80, h[3] + d 80, h[4] + e 80]

/-- R74, R75: the one or two blocks that finishing compresses, and what it leaves: `H` the digest, `BUF` the last block, `BUFLEN`
and `COUNT` as they were; it returns the bytes of the five words in order. -/
def Obligations.FinishPadsOneOrTwoBlocks : Prop :=
  ∀ e : Engine,
    let n := e.bufLen.val
    let msg := e.buf.toList.take n
    let len := (bytesBe64 (engineCount e)).toList
    (n ≤ 55 →
      (engineFinish e).buf.toList = msg ++ [0x80#8] ++ List.replicate (55 - n) 0x00#8 ++ len ∧
      (engineFinish e).h = compress e.h (engineFinish e).buf) ∧
    (56 ≤ n → ∃ first : Vector Byte 64,
      first.toList = msg ++ [0x80#8] ++ List.replicate (63 - n) 0x00#8 ∧
      (engineFinish e).buf.toList = List.replicate 56 0x00#8 ++ len ∧
      (engineFinish e).h = compress (compress e.h first) (engineFinish e).buf) ∧
    (engineFinish e).bufLen = e.bufLen ∧ engineCount (engineFinish e) = engineCount e ∧
    (finishDigest e).toList = ((engineFinish e).h.toList.map fun w => (bytesBe32 w).toList).flatten

/-- R37, R76: `SHA1_FINAL` in its own phase answers the 20 digest bytes, each word of the finished engine most significant byte
first, leaves `PHASE = DONE`, and writes nothing but the engine and `PHASE`. -/
def Obligations.Sha1FinalAnswersDigest : Prop :=
  TakesNoOperand 0x12#8 .sha1Final ∧ RefusedWhenHalted .sha1Final ∧ FaultsOutsidePhase .hmacActive 0x12#8 .sha1Final ∧
  ∀ s : State, Running s → s.ctl.phase = .shaActive → ∃ digest : Vector Byte 20,
    exec .sha1Final s = .next (answered .ok digest.toList
      { s with engine := engineFinish s.engine, ctl := { s.ctl with phase := .done } }) ∧
    ∀ j : Fin 5, (engineFinish s.engine).h[j].toNat =
      digest[4 * j.val].toNat * 2 ^ 24 + digest[4 * j.val + 1].toNat * 2 ^ 16
        + digest[4 * j.val + 2].toNat * 2 ^ 8 + digest[4 * j.val + 3].toNat

/-- R78: the padded length is the least multiple of 64 that is at least `L + 9`, and the number of blocks is
`(L + 8) div 64 + 1`; the message comes first and its bit length, modulo 2^64, last. -/
def Obligations.PaddedLengthIsLeast : Prop :=
  ∀ m : List Byte,
    (padMessage m).length = 64 * ((m.length + 8) / 64 + 1) ∧
    m.length + 9 ≤ (padMessage m).length ∧ (padMessage m).length < m.length + 9 + 64 ∧
    (padMessage m).take (m.length + 1) = m ++ [0x80#8] ∧
    (∀ k : Nat, m.length < k → k + 8 < (padMessage m).length → (padMessage m).getD k 0xff#8 = 0x00#8) ∧
    ∃ v : Vector Byte 8, (padMessage m).drop ((padMessage m).length - 8) = v.toList ∧
      (valBe64 v).toNat = 8 * m.length % 2 ^ 64

/-- R80: `SHA1_INIT`, updates and commands that leave the engine alone, then `SHA1_FINAL`, answers `SHA1` of the concatenated
data, and every command of the sequence answers OK; right after reset the `SHA1_INIT` may be left out. -/
def Obligations.CommandsComputeSha1 : Prop :=
  ∀ (s : State) (cs : List Instr), Running s →
    (∀ i ∈ cs, leavesEngineAlone i = true ∨ (sha1Chunk i).isSome = true) →
    let answersSha1 := fun (start : List Instr) =>
      ∃ (t : State) (rs : List (List Byte)), runAll (start ++ cs ++ [.sha1Final]) s = .next t ∧
        t.host.outbox = s.host.outbox ++ (start.map fun _ => [0x00#8, 0x00#8, 0x00#8]) ++ rs ++
          [0x00#8 :: 0x00#8 :: 0x14#8 :: (sha1 (cs.filterMap sha1Chunk).flatten).toList] ∧
        rs.length = cs.length ∧
        ∀ (k : Nat) (data : List Byte), cs[k]? = some (.sha1Update data) →
          rs[k]? = some [0x00#8, 0x00#8, 0x00#8]
    answersSha1 [.sha1Init] ∧ (IsResetCore s → answersSha1 [])

/-- R81: the same bytes in any split over `SHA1_UPDATE` commands give the same engine and the same final digest. -/
def Obligations.ChunkingDoesNotMatter : Prop :=
  ∀ (s : State) (xs ys : List (List Byte)), Running s → s.ctl.phase = .shaActive → xs.flatten = ys.flatten →
    ∃ t u t' u' p, runAll (xs.map .sha1Update) s = .next t ∧ runAll (ys.map .sha1Update) s = .next u ∧
      t.engine = u.engine ∧ t.ctl = u.ctl ∧
      exec .sha1Final t = .next (answered .ok p t') ∧ exec .sha1Final u = .next (answered .ok p u')

/-! ### The HMAC wrapper -/

/-- R84, R85: `HMAC_INIT key` from every running state: the normalised key zero-padded in `KEY`, its length in `KEYLEN`, the
inner pad absorbed into a fresh engine, `PHASE = HMAC_ACTIVE`, and nothing else. -/
def Obligations.HmacInitStartsInnerHash : Prop :=
  TakesBytes 0x20#8 .hmacInit ∧ (∀ key : List Byte, RefusedWhenHalted (.hmacInit key)) ∧
  ∀ (s : State) (key : List Byte), Running s → ∃ (ctx : HmacContext) (e : Engine) (ipad : Vector Byte 64),
    exec (.hmacInit key) s = .next (answered .ok []
      { s with engine := e, hmac := ctx, ctl := { s.ctl with phase := .hmacActive } }) ∧
    ctx.keyLen.val = (if 64 < key.length then 20 else key.length) ∧
    (∀ i : Fin 64, ctx.key[i] = (if 64 < key.length then (sha1 key).toList else key).getD i.val 0x00#8) ∧
    (∀ i : Fin 64, ipad[i] = ctx.key[i] ^^^ 0x36#8) ∧
    e.h = compress Config.iv ipad ∧ e.buf = ipad ∧ e.bufLen.val = 0 ∧ engineCount e = 0x200#64

/-- R86: `HMAC_UPDATE` in its own phase continues the inner hash and answers OK, writing the engine alone; outside its
phase it faults. -/
def Obligations.HmacUpdateAbsorbs : Prop :=
  TakesBytes 0x21#8 .hmacUpdate ∧
  ∀ data : List Byte, RefusedWhenHalted (.hmacUpdate data) ∧
    FaultsOutsidePhase .shaActive 0x21#8 (.hmacUpdate data) ∧
    ∀ s : State, Running s → s.ctl.phase = .hmacActive →
      exec (.hmacUpdate data) s = .next (answered .ok [] { s with engine := engineAbsorb s.engine data })

/-- R87, R88: `HMAC_FINAL` in its own phase: the inner digest, then a fresh engine over the outer pad and the inner digest; it
answers the 20 bytes, leaves `PHASE = DONE`, in `BUF` the last block, `BUFLEN = 20` and `COUNT = 672`, and does not write `KEY`
or `KEYLEN`. -/
def Obligations.HmacFinalAnswersMac : Prop :=
  TakesNoOperand 0x22#8 .hmacFinal ∧ RefusedWhenHalted .hmacFinal ∧ FaultsOutsidePhase .shaActive 0x22#8 .hmacFinal ∧
  ∀ s : State, Running s → s.ctl.phase = .hmacActive → ∃ e : Engine,
    let inner := (digestBytes (engineFinish s.engine).h).toList
    exec .hmacFinal s = .next (answered .ok (digestBytes e.h).toList
      { s with engine := e, ctl := { s.ctl with phase := .done } }) ∧
    digestBytes e.h = sha1 ((s.hmac.key.toList.map (· ^^^ 0x5C#8)) ++ inner) ∧
    e.buf.toList = inner ++ [0x80#8] ++ List.replicate 41 0x00#8 ++ [0x02#8, 0xA0#8] ∧
    e.bufLen.val = 20 ∧ engineCount e = 672#64

/-- R92: `HMAC_INIT k`, updates and commands that leave the engine alone, then `HMAC_FINAL`, answers `HMAC` of the key and the
concatenated data, and every command of the sequence answers OK. -/
def Obligations.CommandsComputeHmac : Prop :=
  ∀ (s : State) (k : List Byte) (cs : List Instr), Running s →
    (∀ i ∈ cs, leavesEngineAlone i = true ∨ (hmacChunk i).isSome = true) →
    ∃ (t : State) (rs : List (List Byte)), runAll (.hmacInit k :: cs ++ [.hmacFinal]) s = .next t ∧
      t.host.outbox = s.host.outbox ++ [[0x00#8, 0x00#8, 0x00#8]] ++ rs ++
        [0x00#8 :: 0x00#8 :: 0x14#8 :: (hmacSha1 k (cs.filterMap hmacChunk).flatten).toList] ∧
      rs.length = cs.length ∧
      ∀ (j : Nat) (data : List Byte), cs[j]? = some (.hmacUpdate data) →
        rs[j]? = some [0x00#8, 0x00#8, 0x00#8]

/-- R93: a key of more than 64 bytes and its SHA-1 digest give the same HMAC and leave the same state. -/
def Obligations.LongKeyEqualsItsDigest : Prop :=
  ∀ (k : List Byte), 64 < k.length →
    (∀ m : List Byte, hmacSha1 k m = hmacSha1 (sha1 k).toList m) ∧
    ∀ s : State, exec (.hmacInit k) s = exec (.hmacInit (sha1 k).toList) s

/-- R94: after a sequence of commands from reset that leaves the core running, `HMAC_UPDATE` and `HMAC_FINAL` are legal exactly
when the most recent INIT-class or FINAL-class command was an `HMAC_INIT`. -/
def Obligations.HmacLegalAfterHmacInit : Prop :=
  ∀ (s t : State) (cs : List Instr), IsResetCore s → runAll cs s = .next t → Running t →
    (∀ data : List Byte, (∃ u : State, exec (.hmacUpdate data) t = .next (answered .ok [] u)) ↔
      lastInitOrFinal cs = some .hmacInit) ∧
    ((∃ (u : State) (p : List Byte), exec .hmacFinal t = .next (answered .ok p u)) ↔
      lastInitOrFinal cs = some .hmacInit)

/-! ### The OTP formatter -/

/-- R96, R39: the truncation window and its value, below 2^31. -/
def Obligations.TruncateMasksWindow : Prop :=
  ∀ hmac : Vector Byte 20, ∃ offset : Nat, ∃ h : offset ≤ 15,
    offset = hmac[19].toNat % 16 ∧
    truncate hmac = (be32 hmac[offset] hmac[offset + 1] hmac[offset + 2] hmac[offset + 3] &&& 0x7FFFFFFF#32).toNat ∧
    truncate hmac = (hmac[offset].toNat % 128) * 2 ^ 24 + hmac[offset + 1].toNat * 2 ^ 16
      + hmac[offset + 2].toNat * 2 ^ 8 + hmac[offset + 3].toNat ∧
    truncate hmac < 2 ^ 31

/-- R98: the checksum completes the transformed digit sum to a multiple of ten, where an odd position counts the digit sum of
twice its digit; the sum is at most 63. -/
def Obligations.ChecksumCompletesDigitSum : Prop :=
  ∀ c : Nat, c < 10000000 → ∃ d1 d2 d3 d4 d5 d6 d7 : Nat,
    (d1 < 10 ∧ d2 < 10 ∧ d3 < 10 ∧ d4 < 10 ∧ d5 < 10 ∧ d6 < 10 ∧ d7 < 10) ∧
    c = d1 * 1000000 + d2 * 100000 + d3 * 10000 + d4 * 1000 + d5 * 100 + d6 * 10 + d7 ∧
    let twice := fun d => if d ≤ 4 then 2 * d else 2 * d - 9
    let sum := twice d1 + d2 + twice d3 + d4 + twice d5 + d6 + twice d7
    sum ≤ 63 ∧ checksum c = (10 - sum % 10) % 10 ∧ (sum + checksum c) % 10 = 0

/-- R98 ("used to catch single-digit entry errors"): two seven-digit numbers that differ in exactly one digit have different
checksum digits. -/
def Obligations.ChecksumCatchesOneDigit : Prop :=
  ∀ c c' : Nat, c < 10000000 → c' < 10000000 →
    ∀ k : Nat, k < 7 → (∀ j : Nat, j < 7 → (c / 10 ^ j % 10 = c' / 10 ^ j % 10 ↔ j ≠ k)) →
      checksum c ≠ checksum c'

/-- R97, R100, R102: the code is exactly eight ASCII digits: the seven digits of the reduced value, most significant first, then
the checksum digit. -/
def Obligations.CodeIsEightAsciiDigits : Prop :=
  ∀ hmac : Vector Byte 20,
    (∀ i : Fin 8, 0x30 ≤ (otp hmac)[i].toNat ∧ (otp hmac)[i].toNat ≤ 0x39) ∧
    (∀ i : Fin 7, (otp hmac)[i.val].toNat = 0x30 + (truncate hmac % 10000000) / 10 ^ (6 - i.val) % 10) ∧
    (otp hmac)[7].toNat = 0x30 + checksum (truncate hmac % 10000000)

/-- R99, R100: `OTP_FORMAT` answers the code from every running state, in every phase, and changes nothing. -/
def Obligations.OtpFormatAnswersCode : Prop :=
  TakesExactly 20 0x30#8 .otpFormat ∧
  (∀ hmac : Vector Byte 20, RefusedWhenHalted (.otpFormat hmac)) ∧
  ∀ (s : State) (hmac : Vector Byte 20), Running s →
    exec (.otpFormat hmac) s = .next (answered .ok (otp hmac).toList s)

/-! ### The OTP generator -/

/-- R106: `GEN_CONSTRUCT`: its frame, the two checks, the secret's first, and what a successful construction writes. -/
def Obligations.ConstructMakesNewGenerator : Prop :=
  (∀ (secret : Option (List Byte)) (ctr : Option (Vector Byte 8)), (Instr.genConstruct secret ctr).wellFormed = true →
    decode (frameBytes 0x40#8 (((if secret.isSome then 1#8 else 0#8) + (if ctr.isSome then 2#8 else 0#8)) ::
      ((ctr.map Vector.toList).getD [] ++ secret.getD []))) = .ok (.genConstruct secret ctr)) ∧
  (∀ payload : List Byte, malformedPayload payload = true → payload.length ≤ 65535 →
    AnswersIllegal (frameBytes 0x40#8 payload)) ∧
  (∀ (secret : Option (List Byte)) (ctr : Option (Vector Byte 8)), RefusedWhenHalted (.genConstruct secret ctr)) ∧
  ∀ (s : State) (secret : Option (List Byte)) (ctr : Option (Vector Byte 8)), Running s →
    ((∃ b ∈ secret, b.length < 20) → exec (.genConstruct secret ctr) s = .next (answered .invalidSecret [] s)) ∧
    ((∀ b ∈ secret, 20 ≤ b.length) → (∃ c ∈ ctr, deser s.config.ctrOrder c = 0#64) →
      exec (.genConstruct secret ctr) s = .next (answered .invalidCounter [] s)) ∧
    ((∀ b ∈ secret, 20 ≤ b.length) → (∀ c ∈ ctr, deser s.config.ctrOrder c ≠ 0#64) →
      exec (.genConstruct secret ctr) s = .next (answered .ok []
        { s with gen :=
          { secret := match secret with
              | some b => b
              | none => (List.range 20).map fun k => BitVec.ofNat 8 (0x30 + k)
            counter := match ctr with
              | some c => deser s.config.ctrOrder c
              | none => 1#64
            defsec := secret.isNone } }))

/-- R108: `GEN_SET_SECRET`: a secret of at least 20 bytes replaces the old one whole; a shorter one changes nothing. -/
def Obligations.SetSecretValidatesLength : Prop :=
  TakesBytes 0x41#8 .genSetSecret ∧ (∀ secret : List Byte, RefusedWhenHalted (.genSetSecret secret)) ∧
  ∀ (s : State) (secret : List Byte), Running s → exec (.genSetSecret secret) s =
    .next (if secret.length < 20 then answered .invalidSecret [] s
      else answered .ok [] { s with gen := { s.gen with secret := secret, defsec := false } })

/-- R109: `GEN_SET_COUNTER` stores any 64-bit value, 0 among them. -/
def Obligations.SetCounterStoresAnyValue : Prop :=
  TakesExactly 8 0x42#8 .genSetCounter ∧
  (∀ b : Vector Byte 8, RefusedWhenHalted (.genSetCounter b)) ∧
  ∀ s : State, Running s →
    (∀ b : Vector Byte 8, exec (.genSetCounter b) s =
      .next (answered .ok [] { s with gen := { s.gen with counter := deser s.config.ctrOrder b } })) ∧
    ∀ v : Word64, ∃ b : Vector Byte 8, deser s.config.ctrOrder b = v

/-- R110: `GEN_GET_COUNTER` answers the 8-byte form and writes nothing; giving the bytes back to `GEN_SET_COUNTER` restores the
counter exactly, in either byte order. -/
def Obligations.GetCounterGivesBackCounter : Prop :=
  TakesNoOperand 0x43#8 .genGetCounter ∧ RefusedWhenHalted .genGetCounter ∧
  ∀ s : State, Running s → ∃ b : Vector Byte 8,
    exec .genGetCounter s = .next (answered .ok b.toList s) ∧ b = ser s.config.ctrOrder s.gen.counter ∧
    ∀ t : State, Running t → t.config = s.config →
      exec (.genSetCounter b) t = .next (answered .ok [] { t with gen := { t.gen with counter := s.gen.counter } })

/-- R9, R40: the two byte orders of the 8-byte counter form, and that each is inverted by its reader. -/
def Obligations.CounterFormsInvert : Prop :=
  (∀ (o : CtrOrder) (v : Word64), deser o (ser o v) = v) ∧
  (∀ (o : CtrOrder) (b : Vector Byte 8), ser o (deser o b) = b) ∧
  ∀ (v : Word64) (i : Fin 8),
    (ser .big v)[i].toNat = v.toNat / 2 ^ (8 * (7 - i.val)) % 256 ∧
    (ser .little v)[i].toNat = v.toNat / 2 ^ (8 * i.val) % 256

/-- R112: `GEN_CURRENT` from every running state, in every phase: it answers the code, leaves `PHASE = DONE`, keeps `SECRET`,
`COUNTER` and `DEFSEC`, and leaves the engine, `KEY` and `KEYLEN` as the HMAC commands on the secret and the 8-byte form of the
counter would; the code is that HMAC value formatted. -/
def Obligations.CurrentCodeCompletes : Prop :=
  TakesNoOperand 0x44#8 .genCurrent ∧ RefusedWhenHalted .genCurrent ∧
  ∀ s : State, Running s → ∃ (e : Engine) (ctx : HmacContext) (t : State),
    exec .genCurrent s = .next (answered .ok (otp (digestBytes e.h)).toList
      { s with engine := e, hmac := ctx, ctl := { s.ctl with phase := .done } }) ∧
    runAll [.hmacInit s.gen.secret, .hmacUpdate (ser s.config.ctrOrder s.gen.counter).toList, .hmacFinal] s = .next t ∧
    t.engine = e ∧ t.hmac = ctx

/-- R113: `GEN_NEXT` from every running state: the counter is advanced by one modulo 2^64 first, and the rest is
`GEN_CURRENT` at the new counter. -/
def Obligations.NextCodeAdvancesCounter : Prop :=
  TakesNoOperand 0x45#8 .genNext ∧ RefusedWhenHalted .genNext ∧
  ∀ s : State, Running s → ∃ (t : State) (c : Word64) (p : Vector Byte 8),
    exec .genNext s = .next (answered .ok p.toList t) ∧
    c.toNat = (s.gen.counter.toNat + 1) % 2 ^ 64 ∧ t.gen = { s.gen with counter := c } ∧ t.ctl.phase = .done ∧
    exec .genCurrent { s with gen := { s.gen with counter := c } } = .next (answered .ok p.toList t)

/-- R116: `GEN_CURRENT` returns `CODE(SECRET, COUNTER)` and `GEN_NEXT` returns `CODE(SECRET, COUNTER +64 1)`. -/
def Obligations.CommandsComputeCode : Prop :=
  ∀ s : State, Running s →
    (∃ t : State, exec .genCurrent s =
      .next (answered .ok (code s.config.ctrOrder s.gen.secret s.gen.counter).toList t)) ∧
    ∃ t : State, exec .genNext s =
      .next (answered .ok (code s.config.ctrOrder s.gen.secret (s.gen.counter + 1#64)).toList t)

/-- R115: with no `GEN_NEXT`, `GEN_SET_COUNTER`, `GEN_SET_SECRET`, `GEN_CONSTRUCT` or `CORE_RESET` between them, two `GEN_CURRENT`
commands return the same eight bytes, whatever other commands come between. -/
def Obligations.CurrentCodeIsStable : Prop :=
  ∀ (s t : State) (cs : List Instr), Running s → Running t →
    (∀ i ∈ cs, opcodeOf i ∉ [.genNext, .genSetCounter, .genSetSecret, .genConstruct, .coreReset]) →
    runAll (.genCurrent :: cs) s = .next t →
    ∃ (p : Vector Byte 8) (s' t' : State), exec .genCurrent s = .next (answered .ok p.toList s') ∧
      exec .genCurrent t = .next (answered .ok p.toList t')

/-- R117: `GEN_NEXT` at counter `c` returns what a fresh generator with the same secret and counter `c + 1` returns from
`GEN_CURRENT`, provided `c + 1 < 2^64`. -/
def Obligations.NextMatchesFreshGenerator : Prop :=
  ∀ s : State, Running s → 20 ≤ s.gen.secret.length → s.gen.counter.toNat + 1 < 2 ^ 64 →
    ∃ (t u v : State) (p : Vector Byte 8),
      exec .genNext s = .next (answered .ok p.toList t) ∧
      exec (.genConstruct (some s.gen.secret) (some (ser s.config.ctrOrder (s.gen.counter + 1#64)))) s = .next u ∧
      exec .genCurrent u = .next (answered .ok p.toList v)

/-! ### Invariants and whole-machine rules -/

/-- R29: every step keeps the invariants, from every state that meets them. -/
def Obligations.StepKeepsInvariants : Prop :=
  ∀ s t : State, Inv s → step s = .next t → Inv t

/-- R29, R31: the reset state meets the invariants. -/
def Obligations.ResetMeetsInvariants : Prop := Inv State.reset

/-- R29 item 5 against R73 (the model's finding, log entry 6): while the HMAC is open, `COUNT ≥ 512` is kept by an update that
does not wrap `COUNT`, and is lost by one that does. -/
def Obligations.CountBoundHoldsUntilWrap : Prop :=
  (∀ (s t : State) (data : List Byte), Running s → s.ctl.phase = .hmacActive →
    512 ≤ (engineCount s.engine).toNat → (engineCount s.engine).toNat + 8 * data.length < 2 ^ 64 →
    exec (.hmacUpdate data) s = .next t → 512 ≤ (engineCount t.engine).toNat) ∧
  ∃ (s t : State) (data : List Byte), Inv s ∧ Running s ∧ s.ctl.phase = .hmacActive ∧
    512 ≤ (engineCount s.engine).toNat ∧ exec (.hmacUpdate data) s = .next t ∧ t.ctl.phase = .hmacActive ∧
    engineCount t.engine = 0#64

/-- R30, R20: stale bytes of `BUF`, `KEY` and `KEYLEN` outside `HMAC_ACTIVE`, and the engine in `DONE`, cannot be observed: two states
that differ only there answer every command alike and go on differing only there. -/
def Obligations.HiddenRemainsUnobservable : Prop :=
  ∀ (s t : State), SameVisible s t → ∀ i : Instr,
    ∃ s' t' : State, exec i s = .next s' ∧ exec i t = .next t' ∧ SameVisible s' t'

/-- R135: no command but `SHA1_FINAL`, `HMAC_FINAL`, `GEN_CURRENT` and `GEN_NEXT` gives an answer that depends on `SECRET`, `KEY`,
`KEYLEN` or any engine register. -/
def Obligations.OnlyFinalsAnswerFromSecrets : Prop :=
  ∀ (s t : State), SameButHidden s t →
    ∀ i : Instr, opcodeOf i ∉ [.sha1Final, .hmacFinal, .genCurrent, .genNext] →
      ∃ s' t' : State, exec i s = .next s' ∧ exec i t = .next t' ∧ SameButHidden s' t'

/-- R153, R156: a finite list of frames and reset events has a finite run: one step each, at the end of which every input is
taken and every frame has been answered once. The inbox and the outbox are the model's (log entry 2). -/
def Obligations.FiniteListHasFiniteRun : Prop :=
  ∀ s : State, (∀ f : List Byte, HostInput.command f ∈ s.host.inbox → isFrame f = true) →
    ∃ t : State, Sys2Proof.core.run s.host.inbox.length s = .next t ∧ t.host.inbox = [] ∧
      ∃ rs : List (List Byte), t.host.outbox = s.host.outbox ++ rs ∧
        rs.length = (s.host.inbox.filter fun x => x ≠ .reset).length

/-- R6, R140: with nothing handed over the core holds its state. The model's choice (log entry 2): a step then is an idle step. -/
def Obligations.IdleCoreHoldsState : Prop :=
  ∀ s : State, s.host.inbox = [] → step s = .next s
end

