-- ==== Sys2Proof/Laws/State.lean ====
section
/-! SUPPORT. What each update of the state does to each field: one lemma per field, true by unfolding, so that no later proof
unfolds an update. -/

namespace Sys2Proof.Machine

@[simp] theorem answered_engine (st : Status) (p : List Byte) (s : State) : (answered st p s).engine = s.engine := rfl
@[simp] theorem answered_hmac (st : Status) (p : List Byte) (s : State) : (answered st p s).hmac = s.hmac := rfl
@[simp] theorem answered_gen (st : Status) (p : List Byte) (s : State) : (answered st p s).gen = s.gen := rfl
@[simp] theorem answered_ctl (st : Status) (p : List Byte) (s : State) : (answered st p s).ctl = s.ctl := rfl
@[simp] theorem answered_config (st : Status) (p : List Byte) (s : State) : (answered st p s).config = s.config := rfl
@[simp] theorem answered_inbox (st : Status) (p : List Byte) (s : State) : (answered st p s).host.inbox = s.host.inbox := rfl
@[simp] theorem answered_outbox (st : Status) (p : List Byte) (s : State) : (answered st p s).host.outbox = s.host.outbox ++ [responseFrame st p] := rfl

@[simp] theorem setPhase_engine (p : Phase) (s : State) : (setPhase p s).engine = s.engine := rfl
@[simp] theorem setPhase_hmac (p : Phase) (s : State) : (setPhase p s).hmac = s.hmac := rfl
@[simp] theorem setPhase_gen (p : Phase) (s : State) : (setPhase p s).gen = s.gen := rfl
@[simp] theorem setPhase_phase (p : Phase) (s : State) : (setPhase p s).ctl.phase = p := rfl
@[simp] theorem setPhase_fault (p : Phase) (s : State) : (setPhase p s).ctl.fault = s.ctl.fault := rfl
@[simp] theorem setPhase_fcause (p : Phase) (s : State) : (setPhase p s).ctl.fcause = s.ctl.fcause := rfl
@[simp] theorem setPhase_fop (p : Phase) (s : State) : (setPhase p s).ctl.fop = s.ctl.fop := rfl
@[simp] theorem setPhase_config (p : Phase) (s : State) : (setPhase p s).config = s.config := rfl
@[simp] theorem setPhase_host (p : Phase) (s : State) : (setPhase p s).host = s.host := rfl

@[simp] theorem recordFault_engine (op : Opcode) (c : FaultCause) (s : State) : (recordFault op c s).engine = s.engine := rfl
@[simp] theorem recordFault_hmac (op : Opcode) (c : FaultCause) (s : State) : (recordFault op c s).hmac = s.hmac := rfl
@[simp] theorem recordFault_gen (op : Opcode) (c : FaultCause) (s : State) : (recordFault op c s).gen = s.gen := rfl
@[simp] theorem recordFault_phase (op : Opcode) (c : FaultCause) (s : State) : (recordFault op c s).ctl.phase = s.ctl.phase := rfl
@[simp] theorem recordFault_fault (op : Opcode) (c : FaultCause) (s : State) : (recordFault op c s).ctl.fault = true := rfl
@[simp] theorem recordFault_fcause (op : Opcode) (c : FaultCause) (s : State) : (recordFault op c s).ctl.fcause = some c := rfl
@[simp] theorem recordFault_fop (op : Opcode) (c : FaultCause) (s : State) : (recordFault op c s).ctl.fop = opcodeByte op := rfl
@[simp] theorem recordFault_config (op : Opcode) (c : FaultCause) (s : State) : (recordFault op c s).config = s.config := rfl
@[simp] theorem recordFault_host (op : Opcode) (c : FaultCause) (s : State) : (recordFault op c s).host = s.host := rfl

@[simp] theorem resetCore_engine (s : State) : (resetCore s).engine = State.reset.engine := rfl
@[simp] theorem resetCore_hmac (s : State) : (resetCore s).hmac = State.reset.hmac := rfl
@[simp] theorem resetCore_gen (s : State) : (resetCore s).gen = State.reset.gen := rfl
@[simp] theorem resetCore_ctl (s : State) : (resetCore s).ctl = State.reset.ctl := rfl
@[simp] theorem resetCore_config (s : State) : (resetCore s).config = s.config := rfl
@[simp] theorem resetCore_host (s : State) : (resetCore s).host = s.host := rfl

@[simp] theorem takeInput_engine (rest : List HostInput) (s : State) : (takeInput rest s).engine = s.engine := rfl
@[simp] theorem takeInput_hmac (rest : List HostInput) (s : State) : (takeInput rest s).hmac = s.hmac := rfl
@[simp] theorem takeInput_gen (rest : List HostInput) (s : State) : (takeInput rest s).gen = s.gen := rfl
@[simp] theorem takeInput_ctl (rest : List HostInput) (s : State) : (takeInput rest s).ctl = s.ctl := rfl
@[simp] theorem takeInput_config (rest : List HostInput) (s : State) : (takeInput rest s).config = s.config := rfl
@[simp] theorem takeInput_inbox (rest : List HostInput) (s : State) : (takeInput rest s).host.inbox = rest := rfl
@[simp] theorem takeInput_outbox (rest : List HostInput) (s : State) : (takeInput rest s).host.outbox = s.host.outbox := rfl

@[simp] theorem setCounter_engine (v : Word64) (s : State) : (setCounter v s).engine = s.engine := rfl
@[simp] theorem setCounter_hmac (v : Word64) (s : State) : (setCounter v s).hmac = s.hmac := rfl
@[simp] theorem setCounter_secret (v : Word64) (s : State) : (setCounter v s).gen.secret = s.gen.secret := rfl
@[simp] theorem setCounter_counter (v : Word64) (s : State) : (setCounter v s).gen.counter = v := rfl
@[simp] theorem setCounter_defsec (v : Word64) (s : State) : (setCounter v s).gen.defsec = s.gen.defsec := rfl
@[simp] theorem setCounter_ctl (v : Word64) (s : State) : (setCounter v s).ctl = s.ctl := rfl
@[simp] theorem setCounter_config (v : Word64) (s : State) : (setCounter v s).config = s.config := rfl
@[simp] theorem setCounter_host (v : Word64) (s : State) : (setCounter v s).host = s.host := rfl

@[simp] theorem hmacStart_engine (key : List Byte) (s : State) : (hmacStart key s).engine = startEngine key := rfl
@[simp] theorem hmacStart_hmac (key : List Byte) (s : State) : (hmacStart key s).hmac = startContext key := rfl
@[simp] theorem hmacStart_gen (key : List Byte) (s : State) : (hmacStart key s).gen = s.gen := rfl
@[simp] theorem hmacStart_ctl (key : List Byte) (s : State) : (hmacStart key s).ctl = s.ctl := rfl
@[simp] theorem hmacStart_config (key : List Byte) (s : State) : (hmacStart key s).config = s.config := rfl
@[simp] theorem hmacStart_host (key : List Byte) (s : State) : (hmacStart key s).host = s.host := rfl

@[simp] theorem genCode_engine (s : State) : (genCode s).engine = hmacFinish (startContext s.gen.secret) (codeEngine s) := rfl
@[simp] theorem genCode_hmac (s : State) : (genCode s).hmac = startContext s.gen.secret := rfl
@[simp] theorem genCode_gen (s : State) : (genCode s).gen = s.gen := rfl
@[simp] theorem genCode_ctl (s : State) : (genCode s).ctl = s.ctl := rfl
@[simp] theorem genCode_config (s : State) : (genCode s).config = s.config := rfl
@[simp] theorem genCode_host (s : State) : (genCode s).host = s.host := rfl

@[simp] theorem setCount_h (e : Engine) (v : Word64) : (setCount e v).h = e.h := rfl
@[simp] theorem setCount_buf (e : Engine) (v : Word64) : (setCount e v).buf = e.buf := rfl
@[simp] theorem setCount_bufLen (e : Engine) (v : Word64) : (setCount e v).bufLen = e.bufLen := rfl

/-- `CORE_RESET` and reset agree on the core whatever the configuration. -/
@[simp] theorem resetWith_engine (c : Config) : (State.resetWith c).engine = State.reset.engine := rfl
@[simp] theorem resetWith_hmac (c : Config) : (State.resetWith c).hmac = State.reset.hmac := rfl
@[simp] theorem resetWith_gen (c : Config) : (State.resetWith c).gen = State.reset.gen := rfl
@[simp] theorem resetWith_ctl (c : Config) : (State.resetWith c).ctl = State.reset.ctl := rfl
@[simp] theorem resetWith_config (c : Config) : (State.resetWith c).config = c := rfl

/-- The engine after reset is the one that `EngineInit` makes (10_state R31, 40_sha1_engine R64). -/
theorem reset_engine_eq : State.reset.engine = engineInit := rfl

end Sys2Proof.Machine
end

