-- ==== Sys2Proof/Laws/Engine.lean ====
section
/-! SUPPORT. What the engine's procedures do: `COUNT` and its halves, one absorbed byte, finishing, and the pads. -/

namespace Sys2Proof.Machine

/-! ### `COUNT` (R18) -/

@[simp] theorem engineCount_setCount (e : Engine) (v : Word64) : engineCount (setCount e v) = v := by
  apply BitVec.eq_of_getLsbD_eq
  intro i hi
  simp only [engineCount, setCount, BitVec.getLsbD_append, BitVec.getLsbD_extractLsb']
  by_cases h : i < 32
  · simp [h]
  · have h32 : 32 + (i - 32) = i := by omega
    have : i - 32 < 32 := by omega
    simp [h, h32, this]

theorem engineCount_toNat (e : Engine) : (engineCount e).toNat = e.countHi.toNat * 2 ^ 32 + e.countLo.toNat := by
  have := e.countLo.isLt
  rw [engineCount, BitVec.toNat_append, Nat.shiftLeft_eq, Nat.mul_comm,
    ← Nat.two_pow_add_eq_or_of_lt this]

/-- `COUNT` depends on its two halves alone. -/
theorem engineCount_congr {a b : Engine} (hi : a.countHi = b.countHi) (lo : a.countLo = b.countLo) :
    engineCount a = engineCount b := by
  simp [engineCount, hi, lo]

/-! ### Absorbing (R66) -/

@[simp] theorem engineAbsorb_nil (e : Engine) : engineAbsorb e [] = e := rfl

@[simp] theorem engineAbsorb_cons (e : Engine) (b : Byte) (bs : List Byte) :
    engineAbsorb e (b :: bs) = engineAbsorb (absorbByte e b) bs := rfl

theorem absorbByte_short {e : Engine} (b : Byte) (h : e.bufLen.val + 1 < 64) :
    absorbByte e b =
      { setCount { e with buf := e.buf.set e.bufLen b } (engineCount e + 8#64) with
        bufLen := ⟨e.bufLen.val + 1, h⟩ } := by
  simp only [absorbByte, h, dite_true]

theorem absorbByte_full {e : Engine} (b : Byte) (h : e.bufLen.val = 63) :
    absorbByte e b =
      { setCount { e with buf := e.buf.set e.bufLen b } (engineCount e + 8#64) with
        h := compress e.h (e.buf.set e.bufLen b), bufLen := 0 } := by
  have h' : ¬ e.bufLen.val + 1 < 64 := by omega
  simp only [absorbByte, h', dite_false]

@[simp] theorem absorbByte_buf (e : Engine) (b : Byte) : (absorbByte e b).buf = e.buf.set e.bufLen b := by
  by_cases h : e.bufLen.val + 1 < 64
  · rw [absorbByte_short b h]; rfl
  · rw [absorbByte_full b (by omega : e.bufLen.val = 63)]; rfl

@[simp] theorem absorbByte_count (e : Engine) (b : Byte) : engineCount (absorbByte e b) = engineCount e + 8#64 := by
  by_cases h : e.bufLen.val + 1 < 64
  · rw [absorbByte_short b h]; exact engineCount_setCount { e with buf := e.buf.set e.bufLen b } _
  · rw [absorbByte_full b (by omega : e.bufLen.val = 63)]; exact engineCount_setCount { e with buf := e.buf.set e.bufLen b } _

theorem absorbByte_bufLen (e : Engine) (b : Byte) :
    (absorbByte e b).bufLen.val = (e.bufLen.val + 1) % 64 := by
  by_cases h : e.bufLen.val + 1 < 64
  · rw [absorbByte_short b h]; exact (Nat.mod_eq_of_lt h).symm
  · have h63 : e.bufLen.val = 63 := by omega
    simp [absorbByte_full b h63, h63]

/-! ### Finishing (R75) -/

@[simp] theorem engineFinish_bufLen (e : Engine) : (engineFinish e).bufLen = e.bufLen := by
  unfold engineFinish padEngine; dsimp only; split <;> rfl

@[simp] theorem engineFinish_countHi (e : Engine) : (engineFinish e).countHi = e.countHi := by
  unfold engineFinish padEngine; dsimp only; split <;> rfl

@[simp] theorem engineFinish_countLo (e : Engine) : (engineFinish e).countLo = e.countLo := by
  unfold engineFinish padEngine; dsimp only; split <;> rfl

@[simp] theorem getElem_padBuffer (buf : Vector Byte 64) (n i : Nat) (h : i < 64) :
    (padBuffer buf n)[i] = if i < n then buf[i] else if i = n then 0x80#8 else 0x00#8 := by
  simp [padBuffer]

theorem getElem_putLength_low (buf : Vector Byte 64) (c : Word64) (i : Nat) (h : i < 56) :
    (putLength buf c)[i] = buf[i] := by
  simp [putLength, h]

theorem getElem_putLength_high (buf : Vector Byte 64) (c : Word64) (i : Nat) (h : 56 ≤ i) (h' : i < 64) :
    (putLength buf c)[i] = (bytesBe64 c)[i - 56] := by
  have : ¬ i < 56 := by omega
  simp [putLength, this]

/-! ### The pads (R84, R89) -/

@[simp] theorem getElem_xorPad (key : Vector Byte 64) (c : Byte) (i : Nat) (h : i < 64) :
    (xorPad key c)[i] = key[i] ^^^ c := by
  simp [xorPad]

@[simp] theorem keyContext_keyLen (k : List Byte) (h : k.length ≤ keyMax) : (keyContext k h).keyLen.val = k.length := rfl

@[simp] theorem getElem_keyContext (k : List Byte) (h : k.length ≤ keyMax) (i : Nat) (hi : i < 64) :
    (keyContext k h).key[i] = k.getD i 0x00#8 := by
  simp [keyContext]

theorem startContext_short {key : List Byte} (h : key.length ≤ keyMax) : startContext key = keyContext key h := by
  simp [startContext, h]

theorem startContext_long {key : List Byte} (h : ¬ key.length ≤ keyMax) :
    startContext key = keyContext (hashWith key).toList (by simp [keyMax]) := by
  simp only [startContext, h, dite_false]

end Sys2Proof.Machine
end

