-- ==== Sys2Proof/Laws/Frames.lean ====
section
/-! SUPPORT. What the parts of a frame do: length fields, opcode bytes, operands of a fixed length. -/

namespace Sys2Proof

theorem lengthField_lengthBytes (n : Nat) (h : n ≤ 65535) :
    lengthField (BitVec.ofNat 8 (n / 256)) (BitVec.ofNat 8 n) = n := by
  have h1 : n % 256 < 2 ^ 8 := by omega
  simp only [lengthField, BitVec.toNat_append, BitVec.toNat_ofNat, Nat.shiftLeft_eq]
  rw [Nat.mul_comm, ← Nat.two_pow_add_eq_or_of_lt h1]
  omega

theorem opcodeOfByte_opcodeByte (op : Opcode) : opcodeOfByte (opcodeByte op) = some op := by
  cases op <;> decide

theorem opcodeByte_of_opcodeOfByte {b : Byte} {op : Opcode} (h : opcodeOfByte b = some op) : opcodeByte op = b := by
  simpa using List.find?_some h

theorem exactly_toList {n : Nat} (v : Vector Byte n) : exactly n v.toList = some v := by
  obtain ⟨a, h⟩ := v
  simp [exactly, Vector.toList, h]

theorem toList_of_exactly {n : Nat} {bytes : List Byte} {v : Vector Byte n} (h : exactly n bytes = some v) :
    v.toList = bytes := by
  unfold exactly at h
  split at h
  · cases h; rfl
  · cases h

theorem exactly_isNone {n : Nat} {bytes : List Byte} (h : bytes.length ≠ n) : exactly n bytes = none := by
  simp [exactly, h]

@[simp] theorem length_lengthBytes (n : Nat) : (lengthBytes n).length = 2 := rfl

/-- A length field is below 2^16 (R48). -/
theorem lengthField_le (hi lo : Byte) : lengthField hi lo ≤ 65535 := by
  have := (hi ++ lo : BitVec 16).isLt
  unfold lengthField; omega

/-- A frame with an assigned opcode and a right `LEN` decodes as its payload does (R49 step 5). -/
theorem decode_frame (o : Opcode) (payload : List Byte) (h : payload.length ≤ 65535) :
    decode (opcodeByte o :: (lengthBytes payload.length ++ payload)) = decodePayload o payload := by
  simp [decode, lengthBytes, lengthField_lengthBytes _ h, opcodeOfByte_opcodeByte]

theorem encode_length (i : Instr) : (encode i).length = 3 + (payloadOf i).length := by
  simp [encode]; omega

end Sys2Proof
end

