-- ==== Sys2Proof/Laws/Ops.lean ====
section
/-! SUPPORT. What each shared operation of Machine/Ops.lean can do, said once. -/

namespace Sys2Proof.Machine

@[simp] theorem respond_eq (st : Status) (p : List Byte) (s : State) : respond st p s = .next (answered st p s) := rfl

@[simp] theorem raiseFault_eq (op : Opcode) (c : FaultCause) (s : State) :
    raiseFault op c s = .next (answered (.faulted c) [] (recordFault op c s)) := rfl

@[simp] theorem idle_eq (s : State) : idle s = .next s := rfl

@[simp] theorem resetEvent_eq (s : State) : resetEvent s = .next (resetCore s) := rfl

theorem unlessHalted_halted {s : State} (h : s.ctl.fault = true) (run : State → Result) :
    unlessHalted s run = .next (answered .halted [] s) := by
  simp [unlessHalted, h]

theorem unlessHalted_running {s : State} (h : s.ctl.fault = false) (run : State → Result) :
    unlessHalted s run = run s := by
  simp [unlessHalted, h]

/-- A command that halts is refused or runs, and nothing else (R130). -/
theorem unlessHalted_cases {s t : State} {run : State → Result} (h : unlessHalted s run = .next t) :
    (s.ctl.fault = true ∧ t = answered .halted [] s) ∨ (s.ctl.fault = false ∧ run s = .next t) := by
  unfold unlessHalted at h
  split at h
  · exact .inl ⟨‹_›, by simpa using h.symm⟩
  · exact .inr ⟨Bool.eq_false_iff.mpr ‹_›, h⟩

theorem inPhase_done {own : Phase} {op : Opcode} {s : State} (h : s.ctl.phase = .done) (run : State → Result) :
    inPhase own op s run = .next (answered (.faulted .reuseAfterFinal) [] (recordFault op .reuseAfterFinal s)) := by
  simp [inPhase, phaseCheck, h]

theorem inPhase_own {own : Phase} {op : Opcode} {s : State} (h : s.ctl.phase = own) (ho : own ≠ .done)
    (run : State → Result) : inPhase own op s run = run s := by
  cases own <;> simp_all [inPhase, phaseCheck]

theorem inPhase_other {own : Phase} {op : Opcode} {s : State} (h : s.ctl.phase ≠ own) (hd : s.ctl.phase ≠ .done)
    (run : State → Result) :
    inPhase own op s run = .next (answered (.faulted .noMatchingInit) [] (recordFault op .noMatchingInit s)) := by
  cases hp : s.ctl.phase <;> simp_all [inPhase, phaseCheck]

/-- An UPDATE or FINAL faults or runs in its own phase, and nothing else (R26, R129). -/
theorem inPhase_cases {own : Phase} {op : Opcode} {s t : State} {run : State → Result} 
    (h : inPhase own op s run = .next t) :
    (∃ c, phaseCheck own s.ctl.phase = some c ∧ t = answered (.faulted c) [] (recordFault op c s)) ∨
    (s.ctl.phase = own ∧ run s = .next t) := by
  unfold inPhase at h
  split at h
  · exact .inl ⟨_, ‹_›, by simpa using h.symm⟩
  · refine .inr ⟨?_, h⟩
    cases hp : s.ctl.phase <;> simp_all [phaseCheck]

/-- A frame that decodes to no command is refused, or answered HALTED or `IllegalCommand`, and no state changes (R54, R130). -/
theorem rejectFrame_cases (frame : List Byte) (e : DecodeError) (s : State) :
    (e = .notAFrame ∧ rejectFrame frame e s = .refused .notAFrame) ∨
    (e ≠ .notAFrame ∧ rejectFrame frame e s = .next (answered .halted [] s)) ∨
    (e ≠ .notAFrame ∧ rejectFrame frame e s = .next (answered .illegalCommand [] s)) := by
  unfold rejectFrame
  split
  · exact .inl ⟨rfl, rfl⟩
  · rename_i hne
    split
    · exact .inr (.inl ⟨hne, rfl⟩)
    · exact .inr (.inr ⟨hne, rfl⟩)

/-- What a step can do: nothing, the reset event, a decoded command, or the rejection of a frame. -/
theorem step_cases (s : State) :
    (s.host.inbox = [] ∧ step s = .next s) ∨
    (∃ rest, s.host.inbox = .reset :: rest ∧ step s = .next (resetCore (takeInput rest s))) ∨
    (∃ frame rest i, s.host.inbox = .command frame :: rest ∧ decode frame = .ok i ∧
      step s = exec i (takeInput rest s)) ∨
    (∃ frame rest e, s.host.inbox = .command frame :: rest ∧ decode frame = .error e ∧
      step s = rejectFrame frame e (takeInput rest s)) := by
  unfold step
  split
  · exact .inl ⟨‹_›, rfl⟩
  · exact .inr (.inl ⟨_, ‹_›, rfl⟩)
  · split
    · exact .inr (.inr (.inl ⟨_, _, _, ‹_›, ‹_›, rfl⟩))
    · exact .inr (.inr (.inr ⟨_, _, _, ‹_›, ‹_›, rfl⟩))

end Sys2Proof.Machine
end

