-- ==== Sys2Proof/Laws/PerInstr.lean ====
section
/-! SUPPORT. Families of statements about each command as syntax, one lemma per constructor. -/

namespace Sys2Proof.Laws.EncodedFrame

/-- The frame of a command is its opcode byte, its payload's length high byte first, and the payload (30_encoding R48). -/
def Statement (i : Instr) : Prop :=
  (encode i).head? = some (opcodeByte (opcodeOf i)) ∧ (encode i).drop 3 = payloadOf i ∧
  (i.wellFormed = true → (payloadOf i).length ≤ Config.payloadMax)

theorem coreReset : Statement .coreReset := ⟨rfl, rfl, fun _ => by simp [payloadOf]⟩
theorem coreStatus : Statement .coreStatus := ⟨rfl, rfl, fun _ => by simp [payloadOf]⟩
theorem sha1Init : Statement .sha1Init := ⟨rfl, rfl, fun _ => by simp [payloadOf]⟩
theorem sha1Update (data : List Byte) : Statement (.sha1Update data) :=
  ⟨rfl, rfl, fun h => by simpa [Instr.wellFormed, payloadOf] using h⟩
theorem sha1Final : Statement .sha1Final := ⟨rfl, rfl, fun _ => by simp [payloadOf]⟩
theorem hmacInit (key : List Byte) : Statement (.hmacInit key) :=
  ⟨rfl, rfl, fun h => by simpa [Instr.wellFormed, payloadOf] using h⟩
theorem hmacUpdate (data : List Byte) : Statement (.hmacUpdate data) :=
  ⟨rfl, rfl, fun h => by simpa [Instr.wellFormed, payloadOf] using h⟩
theorem hmacFinal : Statement .hmacFinal := ⟨rfl, rfl, fun _ => by simp [payloadOf]⟩
theorem otpFormat (hmac : Vector Byte 20) : Statement (.otpFormat hmac) :=
  ⟨rfl, rfl, fun _ => by simp [payloadOf, Config.payloadMax]⟩
theorem genConstruct (secret : Option (List Byte)) (ctr : Option (Vector Byte 8)) :
    Statement (.genConstruct secret ctr) := by
  refine ⟨rfl, rfl, fun h => ?_⟩
  cases secret <;> cases ctr <;>
    simp only [Instr.wellFormed, payloadOf, decide_eq_true_eq, Option.map_none, Option.map_some,
      Option.getD_none, Option.getD_some, List.nil_append, List.append_nil, List.length_cons, List.length_nil,
      List.length_append, Vector.length_toList] at h ⊢ <;>
    simp only [Config.payloadMax] at h ⊢ <;> omega
theorem genSetSecret (secret : List Byte) : Statement (.genSetSecret secret) :=
  ⟨rfl, rfl, fun h => by simpa [Instr.wellFormed, payloadOf] using h⟩
theorem genSetCounter (bytes : Vector Byte 8) : Statement (.genSetCounter bytes) :=
  ⟨rfl, rfl, fun _ => by simp [payloadOf, Config.payloadMax]⟩
theorem genGetCounter : Statement .genGetCounter := ⟨rfl, rfl, fun _ => by simp [payloadOf]⟩
theorem genCurrent : Statement .genCurrent := ⟨rfl, rfl, fun _ => by simp [payloadOf]⟩
theorem genNext : Statement .genNext := ⟨rfl, rfl, fun _ => by simp [payloadOf]⟩

end Sys2Proof.Laws.EncodedFrame
end

