-- ==== Sys2Proof/Tests/Slice0.lean ====
section
/-! SUPPORT. The model's own tests: ill-formed commands, frames written from the spec's encoding, single steps with results taken
from 95_test_vectors, and for every statement with hypotheses a witness that meets them. -/

namespace Sys2Proof.Tests

open Sys2Proof Sys2Proof.Machine

/-! ### Helpers -/

/-- `s` with one frame to be handed over next. -/
def asked (frame : List Byte) (s : State) : State :=
  { s with host := { s.host with inbox := [.command frame] } }

/-- `s` with the reset event to come next. -/
def askedReset (s : State) : State := { s with host := { s.host with inbox := [.reset] } }

/-- The reset state with another phase. -/
def inPhaseOf (p : Phase) : State := setPhase p State.reset

/-- A halted core: a second `SHA1_FINAL` (V17, first row). -/
def haltedCore : State := recordFault .sha1Final .reuseAfterFinal (inPhaseOf .done)

/-- The reset state with an engine whose `BUFLEN` is `n`, full of bytes `61`, and the given halves of `COUNT`. -/
def buffered (n : Fin 64) (hi lo : Word) : State :=
  { State.reset with engine := { engineInit with buf := Vector.replicate 64 0x61#8, bufLen := n, countHi := hi, countLo := lo } }

/-- The reset state with another counter. -/
def counting (v : Word64) : State := setCounter v State.reset

/-- The reset state under `CTR_ORDER = little`. -/
def littleCore : State := State.resetWith { ctrOrder := .little }

/-- The next state of a step. -/
def nextOf : Result → Option State
  | .next t => some t
  | _ => none

/-- The response of a step that gave its first response. -/
def reply (r : Result) : Option (List Byte) := (nextOf r).bind fun t => t.host.outbox.getLast?

/-- One step on one frame. -/
def ask (frame : List Byte) (s : State) : Result := step (asked frame s)

/-- Twenty bytes `41` (V16). -/
def bytes41 (n : Nat) : List Byte := List.replicate n 0x41#8

/-- "abc" (V2). -/
def abc : List Byte := [0x61#8, 0x62#8, 0x63#8]

/-- "Jefe" (V8, row H2). -/
def jefe : List Byte := [0x4a#8, 0x65#8, 0x66#8, 0x65#8]

/-- "what do ya want for nothing?" (V8, row H2). -/
def question : List Byte :=
  [0x77#8, 0x68#8, 0x61#8, 0x74#8, 0x20#8, 0x64#8, 0x6f#8, 0x20#8, 0x79#8, 0x61#8, 0x20#8, 0x77#8, 0x61#8, 0x6e#8] ++
  [0x74#8, 0x20#8, 0x66#8, 0x6f#8, 0x72#8, 0x20#8, 0x6e#8, 0x6f#8, 0x74#8, 0x68#8, 0x69#8, 0x6e#8, 0x67#8, 0x3f#8]

/-! ### Ill-formed commands are refused (30_encoding R50, R55; 70 R151) -/

theorem test_wellFormed_sha1Update : Instr.wellFormed (.sha1Update (List.replicate 65536 0#8)) = false := by
  show decide ((List.replicate 65536 (0#8 : Byte)).length ≤ Config.payloadMax) = _
  rw [List.length_replicate]; decide
theorem test_wellFormed_hmacInit : Instr.wellFormed (.hmacInit (List.replicate 65536 0#8)) = false := by
  show decide ((List.replicate 65536 (0#8 : Byte)).length ≤ Config.payloadMax) = _
  rw [List.length_replicate]; decide
theorem test_wellFormed_hmacUpdate : Instr.wellFormed (.hmacUpdate (List.replicate 65536 0#8)) = false := by
  show decide ((List.replicate 65536 (0#8 : Byte)).length ≤ Config.payloadMax) = _
  rw [List.length_replicate]; decide
theorem test_wellFormed_genSetSecret : Instr.wellFormed (.genSetSecret (List.replicate 65536 0#8)) = false := by
  show decide ((List.replicate 65536 (0#8 : Byte)).length ≤ Config.payloadMax) = _
  rw [List.length_replicate]; decide
theorem test_wellFormed_genConstruct_secret :
    Instr.wellFormed (.genConstruct (some (List.replicate 65535 0#8)) none) = false := by
  have h : ∀ b : List Byte, b.length = 65535 → Instr.wellFormed (.genConstruct (some b) none) = false :=
    fun b hb => by simp [Instr.wellFormed, hb, Config.payloadMax]
  exact h _ List.length_replicate
theorem test_wellFormed_genConstruct_both :
    Instr.wellFormed (.genConstruct (some (List.replicate 65527 0#8)) (some (Vector.replicate 8 0#8))) = false := by
  have h : ∀ b : List Byte, b.length = 65527 →
      Instr.wellFormed (.genConstruct (some b) (some (Vector.replicate 8 0#8))) = false :=
    fun b hb => by simp [Instr.wellFormed, hb, Config.payloadMax]
  exact h _ List.length_replicate
theorem test_wellFormed_longest : Instr.wellFormed (.sha1Update (List.replicate 65535 0#8)) = true := by
  show decide ((List.replicate 65535 (0#8 : Byte)).length ≤ Config.payloadMax) = _
  rw [List.length_replicate]; decide

/-! ### Decoding: one frame of every command (V15), written out byte by byte -/

theorem test_decode_coreReset : decode [0x00#8, 0x00#8, 0x00#8] = .ok .coreReset := by decide
theorem test_decode_coreStatus : decode [0x01#8, 0x00#8, 0x00#8] = .ok .coreStatus := by decide
theorem test_decode_sha1Init : decode [0x10#8, 0x00#8, 0x00#8] = .ok .sha1Init := by decide
theorem test_decode_sha1Update : decode [0x11#8, 0x00#8, 0x03#8, 0x61#8, 0x62#8, 0x63#8] = .ok (.sha1Update abc) := by decide
theorem test_decode_sha1Final : decode [0x12#8, 0x00#8, 0x00#8] = .ok .sha1Final := by decide
theorem test_decode_hmacInit :
    decode [0x20#8, 0x00#8, 0x04#8, 0x4a#8, 0x65#8, 0x66#8, 0x65#8] = .ok (.hmacInit jefe) := by decide
theorem test_decode_hmacUpdate : decode [0x21#8, 0x00#8, 0x01#8, 0x78#8] = .ok (.hmacUpdate [0x78#8]) := by decide
theorem test_decode_hmacFinal : decode [0x22#8, 0x00#8, 0x00#8] = .ok .hmacFinal := by decide
theorem test_decode_otpFormat :
    decode (0x30#8 :: 0x00#8 :: 0x14#8 :: List.replicate 20 0x00#8) = .ok (.otpFormat (Vector.replicate 20 0x00#8)) := by
  decide
theorem test_decode_genConstruct_none : decode [0x40#8, 0x00#8, 0x01#8, 0x00#8] = .ok (.genConstruct none none) := by decide
theorem test_decode_genConstruct_both :
    decode (0x40#8 :: 0x00#8 :: 0x1d#8 :: 0x03#8 ::
      ([0#8, 0#8, 0#8, 0#8, 0#8, 0#8, 0#8, 0x05#8] ++ bytes41 20)) =
    .ok (.genConstruct (some (bytes41 20)) (some #v[0#8, 0#8, 0#8, 0#8, 0#8, 0#8, 0#8, 0x05#8])) := by decide
theorem test_decode_genSetSecret :
    decode (0x41#8 :: 0x00#8 :: 0x14#8 :: bytes41 20) = .ok (.genSetSecret (bytes41 20)) := by decide
theorem test_decode_genSetCounter :
    decode [0x42#8, 0x00#8, 0x08#8, 0#8, 0#8, 0#8, 0#8, 0#8, 0#8, 0#8, 0x09#8] =
    .ok (.genSetCounter #v[0#8, 0#8, 0#8, 0#8, 0#8, 0#8, 0#8, 0x09#8]) := by decide
theorem test_decode_genGetCounter : decode [0x43#8, 0x00#8, 0x00#8] = .ok .genGetCounter := by decide
theorem test_decode_genCurrent : decode [0x44#8, 0x00#8, 0x00#8] = .ok .genCurrent := by decide
theorem test_decode_genNext : decode [0x45#8, 0x00#8, 0x00#8] = .ok .genNext := by decide

/-- V16: reserved opcodes, a payload that is not allowed, malformed construct payloads, and a byte count other than `3 + LEN`. -/
theorem test_decode_rejects :
    decode [0x02#8, 0x00#8, 0x00#8] = .error .reservedOpcode ∧
    decode [0xff#8, 0x00#8, 0x00#8] = .error .reservedOpcode ∧
    decode [0x10#8, 0x00#8, 0x01#8, 0x78#8] = .error .badLength ∧
    decode (0x42#8 :: 0x00#8 :: 0x07#8 :: List.replicate 7 0x00#8) = .error .badLength ∧
    decode [0x40#8, 0x00#8, 0x00#8] = .error .malformedConstruct ∧
    decode [0x40#8, 0x00#8, 0x01#8, 0x04#8] = .error .malformedConstruct ∧
    decode (0x40#8 :: 0x00#8 :: 0x08#8 :: 0x02#8 :: List.replicate 7 0x00#8) = .error .malformedConstruct ∧
    decode [0x40#8, 0x00#8, 0x02#8, 0x00#8, 0x78#8] = .error .malformedConstruct ∧
    decode [0x10#8, 0x00#8] = .error .notAFrame ∧
    decode [0x10#8, 0x00#8, 0x01#8] = .error .notAFrame := by decide

/-- The encoder gives the frames of V15. -/
theorem test_encode :
    encode (.sha1Update abc) = [0x11#8, 0x00#8, 0x03#8, 0x61#8, 0x62#8, 0x63#8] ∧
    encode (.genConstruct none (some #v[0#8, 0#8, 0#8, 0#8, 0#8, 0#8, 0#8, 0x02#8])) =
      [0x40#8, 0x00#8, 0x09#8, 0x02#8, 0#8, 0#8, 0#8, 0#8, 0#8, 0#8, 0#8, 0x02#8] := by decide

/-- The table's words of `SHA1_FINAL` and `GEN_NEXT` (opcode_table.json). -/
theorem test_tableWord :
    decodeTableWord 8 0x12 = some .sha1Final ∧ decodeTableWord 8 0x45 = some .genNext ∧
    decodeTableWord 24 0x30 = some (.otpFormat (Vector.replicate 20 0x00#8)) := by decide

/-! ### Single steps: system commands, errors and faults -/

/-- V15: `CORE_STATUS` at reset. -/
theorem test_step_coreStatus :
    reply (ask [0x01#8, 0x00#8, 0x00#8] State.reset) = some [0x00#8, 0x00#8, 0x03#8, 0x04#8, 0x00#8, 0x00#8] := by decide
/-- V17, first row: `CORE_STATUS` of the halted core. -/
theorem test_step_coreStatus_halted :
    reply (ask [0x01#8, 0x00#8, 0x00#8] haltedCore) = some [0x00#8, 0x00#8, 0x03#8, 0x86#8, 0x01#8, 0x12#8] := by decide
/-- V17: `CORE_RESET` of the halted core, after which its registers are those of reset. -/
theorem test_step_coreReset :
    reply (ask [0x00#8, 0x00#8, 0x00#8] haltedCore) = some [0x00#8, 0x00#8, 0x00#8] ∧
    (nextOf (ask [0x00#8, 0x00#8, 0x00#8] haltedCore)).map State.ctl = some State.reset.ctl := by decide
/-- V17: halted, a reserved opcode and a malformed frame answer HALTED too. -/
theorem test_step_halted :
    reply (ask [0xff#8, 0x00#8, 0x00#8] haltedCore) = some [0x8f#8, 0x00#8, 0x00#8] ∧
    reply (ask [0x10#8, 0x00#8, 0x01#8, 0x78#8] haltedCore) = some [0x8f#8, 0x00#8, 0x00#8] ∧
    reply (ask [0x43#8, 0x00#8, 0x00#8] haltedCore) = some [0x8f#8, 0x00#8, 0x00#8] := by decide
/-- V16: a reserved opcode on a running core. -/
theorem test_step_reserved :
    reply (ask [0x46#8, 0x00#8, 0x00#8] State.reset) = some [0x03#8, 0x00#8, 0x00#8] := by decide
/-- V17, third row: `HMAC_UPDATE` with no `HMAC_INIT`. -/
theorem test_step_noMatchingInit :
    reply (ask [0x21#8, 0x00#8, 0x01#8, 0x78#8] State.reset) = some [0x82#8, 0x00#8, 0x00#8] ∧
    (nextOf (ask [0x21#8, 0x00#8, 0x01#8, 0x78#8] State.reset)).map State.ctl =
      some { phase := .shaActive, fault := true, fcause := some .noMatchingInit, fop := 0x21#8 } := by decide
/-- V17, last row: `HMAC_FINAL` in `DONE`. -/
theorem test_step_reuseAfterFinal :
    reply (ask [0x22#8, 0x00#8, 0x00#8] (inPhaseOf .done)) = some [0x81#8, 0x00#8, 0x00#8] := by decide

/-! ### Single steps: the engine -/

/-- P1: the engine state after "abc". -/
theorem test_step_sha1Update :
    (nextOf (exec (.sha1Update abc) State.reset)).map (fun t =>
      (t.engine.bufLen.val, t.engine.countHi, t.engine.countLo, t.engine.buf.toList.take 3, t.ctl.phase)) =
    some (3, 0x00000000#32, 0x00000018#32, abc, .shaActive) := by decide
/-- V7: the carry out of `COUNT_LO`, and `COUNT` wrapping modulo 2^64. -/
theorem test_count_carry :
    (nextOf (exec (.sha1Update [0x00#8]) (buffered 63 0x00000000#32 0xFFFFFFF8#32))).map (fun t =>
      (t.engine.bufLen.val, t.engine.countHi, t.engine.countLo)) = some (0, 0x00000001#32, 0x00000000#32) ∧
    (nextOf (exec (.sha1Update [0x00#8]) (buffered 63 0xFFFFFFFF#32 0xFFFFFFF8#32))).map (fun t =>
      (t.engine.bufLen.val, t.engine.countHi, t.engine.countLo)) = some (0, 0x00000000#32, 0x00000000#32) := by
  decide +kernel
/-- V2: the response of `SHA1_FINAL` after "abc". -/
theorem test_step_sha1Final_abc :
    reply (exec .sha1Final { State.reset with engine := engineAbsorb engineInit abc }) =
      some [0x00#8, 0x00#8, 0x14#8, 0xa9#8, 0x99#8, 0x3e#8, 0x36#8, 0x47#8, 0x06#8, 0x81#8, 0x6a#8, 0xba#8, 0x3e#8, 0x25#8,
        0x71#8, 0x78#8, 0x50#8, 0xc2#8, 0x6c#8, 0x9c#8, 0xd0#8, 0xd8#8, 0x9d#8] := by decide +kernel
/-- V4: 56 bytes `61` need two blocks. -/
theorem test_finish_two_blocks :
    (engineFinish (buffered 56 0x00000000#32 0x000001C0#32).engine).h =
      #v[0xc2db330f#32, 0x6083854c#32, 0x99d4b5bf#32, 0xb6e8f29f#32, 0x201be699#32] := by decide +kernel

/-! ### Single steps: HMAC -/

/-- V8, row H2, and P3: the state after `HMAC_INIT "Jefe"`. -/
theorem test_step_hmacInit :
    (nextOf (exec (.hmacInit jefe) State.reset)).map (fun t =>
      (t.hmac.keyLen.val, t.hmac.key.toList.take 5, t.engine.h, t.engine.bufLen.val, t.engine.countLo, t.ctl.phase)) =
    some (4, jefe ++ [0x00#8], #v[0x624D8EA7#32, 0x3F2B1803#32, 0x9554B9E4#32, 0x28C065F5#32, 0xA9FCB98E#32], 0,
      0x00000200#32, .hmacActive) := by decide +kernel
/-- V8, row H6: a key of 65 bytes is hashed first. -/
theorem test_step_hmacInit_long :
    (nextOf (exec (.hmacInit (List.replicate 65 0x6b#8)) State.reset)).map (fun t => (t.hmac.keyLen.val, t.hmac.key.toList.take 4)) =
    some (20, [0xe5#8, 0xf4#8, 0x12#8, 0x11#8]) := by decide +kernel
/-- P3: the state after the message of row H2. -/
theorem test_step_hmacUpdate :
    (nextOf (exec (.hmacUpdate question) (setPhase .hmacActive (hmacStart jefe State.reset)))).map (fun t =>
      (t.engine.bufLen.val, t.engine.countLo, t.ctl.phase)) = some (28, 0x000002E0#32, .hmacActive) := by decide +kernel
/-- V8, row H2: the MAC. -/
theorem test_step_hmacFinal :
    reply (exec .hmacFinal { setPhase .hmacActive (hmacStart jefe State.reset) with
      engine := engineAbsorb (startEngine jefe) question }) =
    some [0x00#8, 0x00#8, 0x14#8, 0xef#8, 0xfc#8, 0xdf#8, 0x6a#8, 0xe5#8, 0xeb#8, 0x2f#8, 0xa2#8, 0xd2#8, 0x74#8, 0x16#8,
      0xd5#8, 0xf1#8, 0x84#8, 0xdf#8, 0x9c#8, 0x25#8, 0x9a#8, 0x7c#8, 0x79#8] := by decide +kernel

/-! ### Single steps: the formatter -/

/-- V13, row F14. -/
theorem test_step_otpFormat :
    reply (exec (.otpFormat #v[0x58#8, 0xa3#8, 0xcb#8, 0x02#8, 0x23#8, 0xbd#8, 0x44#8, 0x50#8, 0x73#8, 0x80#8, 0x12#8,
      0x5e#8, 0xd9#8, 0x1f#8, 0x0b#8, 0x9c#8, 0x51#8, 0xe9#8, 0x7e#8, 0x65#8]) State.reset) =
    some [0x00#8, 0x00#8, 0x08#8, 0x37#8, 0x38#8, 0x38#8, 0x37#8, 0x32#8, 0x31#8, 0x39#8, 0x39#8] := by decide
/-- V13, row F2: offset 15, the window's top bit masked. -/
theorem test_step_otpFormat_offset15 :
    reply (exec (.otpFormat (Vector.replicate 20 0xff#8)) State.reset) =
    some [0x00#8, 0x00#8, 0x08#8, 0x37#8, 0x34#8, 0x38#8, 0x33#8, 0x36#8, 0x34#8, 0x37#8, 0x39#8] := by decide
/-- V14: the checksum alone. -/
theorem test_checksum :
    [1234567, 0, 9999999, 5, 50, 7887219, 1000000, 909090, 90909, 5050505, 4817085, 9999994].map checksum =
      [4, 0, 7, 9, 5, 9, 8, 3, 3, 6, 6, 8] := by decide

/-! ### Single steps: the generator -/

/-- V16: a secret of 19 bytes, also with a counter of 0. -/
theorem test_step_genConstruct_secret :
    reply (exec (.genConstruct (some (bytes41 19)) (some (Vector.replicate 8 0x00#8))) State.reset) =
      some [0x01#8, 0x00#8, 0x00#8] := by decide
/-- V16: a counter of 0. -/
theorem test_step_genConstruct_counter :
    reply (exec (.genConstruct (some (bytes41 20)) (some (Vector.replicate 8 0x00#8))) State.reset) =
      some [0x02#8, 0x00#8, 0x00#8] := by decide
/-- V16: `GEN_SET_SECRET` of 20 bytes clears `DEFSEC` and keeps `COUNTER`. -/
theorem test_step_genSetSecret :
    (nextOf (exec (.genSetSecret (bytes41 20)) (counting 7#64))).map State.gen =
      some { secret := bytes41 20, counter := 7#64, defsec := false } := by decide
/-- V16: 19 bytes are refused and the old secret stays. -/
theorem test_step_genSetSecret_short :
    (nextOf (exec (.genSetSecret (bytes41 19)) State.reset)).map State.gen = some State.reset.gen := by decide
/-- V19: the two byte orders of `GEN_SET_COUNTER`. -/
theorem test_step_genSetCounter :
    (nextOf (exec (.genSetCounter #v[0#8, 0#8, 0#8, 0#8, 0#8, 0#8, 0#8, 1#8]) State.reset)).map (fun t => t.gen.counter) =
      some 1#64 ∧
    (nextOf (exec (.genSetCounter #v[0#8, 0#8, 0#8, 0#8, 0#8, 0#8, 0#8, 1#8]) littleCore)).map (fun t => t.gen.counter) =
      some 0x0100000000000000#64 := by decide
/-- V23: the two byte orders of `GEN_GET_COUNTER`, for `COUNTER = 256`. -/
theorem test_step_genGetCounter :
    reply (exec .genGetCounter (counting 256#64)) =
      some [0x00#8, 0x00#8, 0x08#8, 0#8, 0#8, 0#8, 0#8, 0#8, 0#8, 1#8, 0#8] ∧
    reply (exec .genGetCounter (setCounter 256#64 littleCore)) =
      some [0x00#8, 0x00#8, 0x08#8, 0#8, 1#8, 0#8, 0#8, 0#8, 0#8, 0#8, 0#8] := by decide
/-- V21, first row: "78872199". -/
theorem test_step_genCurrent_little :
    reply (exec .genCurrent littleCore) =
      some [0x00#8, 0x00#8, 0x08#8, 0x37#8, 0x38#8, 0x38#8, 0x37#8, 0x32#8, 0x31#8, 0x39#8, 0x39#8] := by decide +kernel
/-- V23: the counter wraps to 0. -/
theorem test_step_genNext_wrap :
    (nextOf (exec .genNext (counting 0xFFFFFFFFFFFFFFFF#64))).map (fun t => (t.gen.counter, t.ctl.phase)) =
      some (0#64, .done) := by decide +kernel

/-! ### Witnesses: for every statement with hypotheses, a concrete state and operands that meet all of them

The statements say what an instruction does "from every running state" or "in its phase", and what a frame with a `LEN` that is not
allowed is answered; the witnesses of a statement with several clauses meet each clause, at the ends of its range. -/

/-- A `LEN` of 1 for `CORE_RESET`, running and halted. -/
theorem witness_CoreResetRestoresEverything :
    ([0x78#8] : List Byte) ≠ [] ∧ ([0x78#8] : List Byte).length ≤ 65535 ∧
    (asked (frameBytes 0x00#8 [0x78#8]) State.reset).host.inbox = [.command (frameBytes 0x00#8 [0x78#8])] ∧
    Running (asked (frameBytes 0x00#8 [0x78#8]) State.reset) ∧
    (asked (frameBytes 0x00#8 [0x78#8]) haltedCore).ctl.fault = true ∧
    (frameBytes 0x00#8 [0x78#8]).headD 0x00#8 = 0x00#8 := by decide

/-- A `LEN` of 1 for `CORE_STATUS` (V16), on a halted core; and a running core that meets the invariants. -/
theorem witness_CoreStatusReportsThreeBytes : Inv State.reset ∧ Running State.reset ∧
    ([0x78#8] : List Byte) ≠ [] ∧ ([0x78#8] : List Byte).length ≤ 65535 ∧
    (asked (frameBytes 0x01#8 [0x78#8]) haltedCore).host.inbox = [.command (frameBytes 0x01#8 [0x78#8])] ∧
    (asked (frameBytes 0x01#8 [0x78#8]) haltedCore).ctl.fault = true ∧
    (frameBytes 0x01#8 [0x78#8]).headD 0x00#8 = 0x01#8 :=
  ⟨by constructor <;> decide, by decide⟩

theorem witness_ResetEventLeavesResetState : (askedReset haltedCore).host.inbox = .reset :: [] := rfl

theorem reset_isReset : IsResetCore State.reset := by constructor <;> decide

/-- One command that answers OK, one that faults, and the two with a stated payload. -/
theorem witness_FirstCommandAfterReset : IsResetCore State.reset ∧
    operandCheck State.reset.config.ctrOrder (.genSetSecret (bytes41 20)) = .ok ∧
    operandCheck State.reset.config.ctrOrder .hmacFinal = .ok ∧ operandCheck State.reset.config.ctrOrder .sha1Final = .ok ∧
    operandCheck State.reset.config.ctrOrder .genCurrent = .ok := ⟨reset_isReset, by decide⟩

theorem witness_DecodeOfEncode : Instr.wellFormed (.sha1Update (List.replicate 65535 0x00#8)) = true ∧
    Instr.wellFormed (.genConstruct (some (bytes41 20)) (some (Vector.replicate 8 0x00#8))) = true :=
  ⟨test_wellFormed_longest, by decide⟩

theorem witness_EncodeOfDecode : decode [0x40#8, 0x00#8, 0x01#8, 0x01#8] = .ok (.genConstruct (some []) none) := by decide

/-- Both directions: a legal frame, and one whose opcode, `LEN` and payload are as the right side asks. -/
theorem witness_DecodesExactlyLegalFrames :
    ([0x78#8] : List Byte).length = lengthField 0x00#8 0x01#8 ∧
    decode [0x11#8, 0x00#8, 0x01#8, 0x78#8] = .ok (.sha1Update [0x78#8]) ∧
    opcodeByte .genConstruct = 0x40#8 ∧ allowedLength .genConstruct 1 = true ∧ malformedPayload [0x03#8] = true ∧
    malformedPayload [0x01#8] = false := by decide

theorem witness_UndecodableFramesChangeNothing :
    (asked [0x46#8, 0x00#8, 0x00#8] State.reset).host.inbox = [.command [0x46#8, 0x00#8, 0x00#8]] ∧
    isFrame [0x46#8, 0x00#8, 0x00#8] = true ∧ Running (asked [0x46#8, 0x00#8, 0x00#8] State.reset) := by decide

/-- Payloads that are not malformed for each value of `FLAGS`, with 8 bytes of counter and none of secret among them, and one
malformed in each of the four ways. -/
theorem witness_ConstructPayloadFields :
    malformedPayload [0x00#8] = false ∧ malformedPayload [0x01#8] = false ∧
    malformedPayload (0x02#8 :: List.replicate 8 0x00#8) = false ∧ malformedPayload (0x03#8 :: List.replicate 8 0x00#8) = false ∧
    malformedPayload [] = true ∧ malformedPayload [0x04#8] = true ∧ malformedPayload (0x02#8 :: List.replicate 7 0x00#8) = true ∧
    malformedPayload (0x02#8 :: List.replicate 9 0x00#8) = true ∧ malformedPayload [0x00#8, 0x78#8] = true := by decide

theorem witness_StepRunsDecodedCommand :
    (asked [0x44#8, 0x00#8, 0x00#8] State.reset).host.inbox = .command [0x44#8, 0x00#8, 0x00#8] :: [] ∧
    decode [0x44#8, 0x00#8, 0x00#8] = .ok .genCurrent := by decide

theorem witness_NonFramesAreRefused :
    (asked [0x44#8, 0x00#8] State.reset).host.inbox = .command [0x44#8, 0x00#8] :: [] ∧ isFrame [0x44#8, 0x00#8] = false ∧
    isFrame [0x11#8, 0x00#8, 0x02#8, 0x78#8] = false := by decide

/-- A frame for each outcome in the order of the checks, on a halted core and on a running one. -/
theorem witness_ChecksDecideInOrder :
    isFrame [0x10#8, 0x00#8, 0x01#8, 0x78#8] = true ∧
    (asked [0x10#8, 0x00#8, 0x01#8, 0x78#8] haltedCore).host.inbox = [.command [0x10#8, 0x00#8, 0x01#8, 0x78#8]] ∧
    outcomeOf haltedCore [0x10#8, 0x00#8, 0x01#8, 0x78#8] = .halted ∧
    outcomeOf State.reset [0x10#8, 0x00#8, 0x01#8, 0x78#8] = .illegalCommand ∧
    outcomeOf State.reset [0x22#8, 0x00#8, 0x00#8] = .faulted .noMatchingInit ∧
    outcomeOf (inPhaseOf .done) [0x22#8, 0x00#8, 0x00#8] = .faulted .reuseAfterFinal ∧
    outcomeOf State.reset (0x40#8 :: 0x00#8 :: 0x1c#8 :: 0x03#8 :: (List.replicate 8 0x00#8 ++ bytes41 19)) = .invalidSecret ∧
    outcomeOf State.reset (0x40#8 :: 0x00#8 :: 0x1d#8 :: 0x03#8 :: (List.replicate 8 0x00#8 ++ bytes41 20)) = .invalidCounter ∧
    outcomeOf State.reset [0x10#8, 0x00#8, 0x00#8] = .ok := by decide

theorem witness_PhaseTableIsFollowed : Running State.reset ∧ Running (inPhaseOf .hmacActive) ∧ Running (inPhaseOf .done) := by
  decide

theorem witness_FaultEntryIsPrecise :
    Running (inPhaseOf .done) ∧ (inPhaseOf .done).ctl.phase = .done ∧
    Running (inPhaseOf .hmacActive) ∧ (inPhaseOf .hmacActive).ctl.phase = .hmacActive ∧
    Running State.reset ∧ State.reset.ctl.phase = .shaActive := by decide

theorem witness_HaltedCoreRefusesEverything :
    Instr.genNext ≠ .coreReset ∧ Instr.genNext ≠ .coreStatus ∧ haltedCore.ctl.fault = true ∧
    (asked [0xff#8, 0x00#8, 0x00#8] haltedCore).ctl.fault = true ∧
    (asked [0xff#8, 0x00#8, 0x00#8] haltedCore).host.inbox = .command [0xff#8, 0x00#8, 0x00#8] :: [] ∧
    isFrame [0xff#8, 0x00#8, 0x00#8] = true ∧ ([0xff#8, 0x00#8, 0x00#8] : List Byte).headD 0#8 ≠ 0x00#8 ∧
    ([0xff#8, 0x00#8, 0x00#8] : List Byte).headD 0#8 ≠ 0x01#8 := by decide

/-- From a halted core: the command that resets it, one that is refused, and a step that is refused. -/
theorem witness_OnlyResetLeavesFault : haltedCore.ctl.fault = true ∧
    exec .coreReset haltedCore = .next (answered .ok [] (resetCore haltedCore)) ∧
    exec .sha1Init haltedCore = .next (answered .halted [] haltedCore) ∧
    step (asked [0x10#8, 0x00#8, 0x00#8] haltedCore) = .next (answered .halted [] (takeInput [] haltedCore)) ∧
    step (askedReset haltedCore) = .next (resetCore haltedCore) :=
  ⟨rfl, rfl, rfl, rfl, rfl⟩

/-- A command of each class that the clauses name. -/
theorem witness_EveryCommandsFrame :
    exec .coreStatus State.reset = .next (answered .ok [0x04#8, 0x00#8, 0x00#8] State.reset) ∧
    (∃ t, exec .sha1Final State.reset = .next t) ∧
    exec .hmacFinal (inPhaseOf .done) =
      .next (answered (.faulted .reuseAfterFinal) [] (recordFault .hmacFinal .reuseAfterFinal (inPhaseOf .done))) :=
  ⟨rfl, ⟨_, rfl⟩, rfl⟩

theorem witness_Sha1InitRestartsEngine :
    Running (inPhaseOf .done) ∧ haltedCore.ctl.fault = true ∧ ([0x78#8] : List Byte) ≠ [] ∧ ([0x78#8] : List Byte).length ≤ 65535 ∧
    (asked (frameBytes 0x10#8 [0x78#8]) State.reset).host.inbox = .command (frameBytes 0x10#8 [0x78#8]) :: [] ∧
    Running (asked (frameBytes 0x10#8 [0x78#8]) State.reset) := by decide

/-- The longest data, the own phase, the two other phases, and the halted core. -/
theorem witness_Sha1UpdateAbsorbs :
    (List.replicate 65535 (0x00#8 : Byte)).length ≤ 65535 ∧ Running State.reset ∧ State.reset.ctl.phase = .shaActive ∧
    ([] : List Byte) = [] ∧ Running (inPhaseOf .done) ∧ (inPhaseOf .done).ctl.phase = .done ∧ Running (inPhaseOf .hmacActive) ∧
    (inPhaseOf .hmacActive).ctl.phase = .hmacActive ∧ haltedCore.ctl.fault = true :=
  ⟨Nat.le_of_eq List.length_replicate, by decide⟩

/-- The first and the last byte of 64 bytes of data, and a place that no byte of short data reaches. -/
theorem witness_AbsorbChainsCompleteBlocks :
    0 < (bytes41 64).length ∧ (bytes41 64).length ≤ 0 + 64 ∧ 63 < (bytes41 64).length ∧ (bytes41 64).length ≤ 63 + 64 ∧
    ∀ k : Nat, k < abc.length → ((buffered 62 0#32 0#32).engine.bufLen.val + k) % 64 ≠ 1 := by decide

/-- Both ends of both ranges of `BUFLEN`. -/
theorem witness_FinishPadsOneOrTwoBlocks :
    (buffered 0 0#32 0#32).engine.bufLen.val ≤ 55 ∧ (buffered 55 0#32 0#32).engine.bufLen.val ≤ 55 ∧
    56 ≤ (buffered 56 0#32 0#32).engine.bufLen.val ∧ 56 ≤ (buffered 63 0#32 0#32).engine.bufLen.val := by decide

theorem witness_Sha1FinalAnswersDigest :
    Running State.reset ∧ State.reset.ctl.phase = .shaActive ∧ haltedCore.ctl.fault = true ∧
    Running (inPhaseOf .done) ∧ (inPhaseOf .done).ctl.phase = .done ∧ Running (inPhaseOf .hmacActive) ∧
    (inPhaseOf .hmacActive).ctl.phase = .hmacActive ∧
    (asked (frameBytes 0x12#8 [0x00#8]) State.reset).host.inbox = .command (frameBytes 0x12#8 [0x00#8]) :: [] ∧
    Running (asked (frameBytes 0x12#8 [0x00#8]) State.reset) := by decide

/-- A padding zero between the `80` and the length. -/
theorem witness_PaddedLengthIsLeast : abc.length < 4 ∧ 4 + 8 < (padMessage abc).length := by decide

/-- Chunks with a command that leaves the engine alone between them, from reset. -/
theorem witness_CommandsComputeSha1 : Running State.reset ∧ IsResetCore State.reset ∧
    (∀ i ∈ [Instr.sha1Update [0x61#8], .coreStatus, .genSetSecret [], .sha1Update [0x62#8, 0x63#8]],
      leavesEngineAlone i = true ∨ (sha1Chunk i).isSome = true) ∧
    [Instr.sha1Update [0x61#8], .coreStatus][0]? = some (.sha1Update [0x61#8]) := ⟨rfl, reset_isReset, by decide⟩

/-- V6: two splits of "abc". -/
theorem witness_ChunkingDoesNotMatter : Running State.reset ∧ State.reset.ctl.phase = .shaActive ∧
    ([abc] : List (List Byte)).flatten = ([[], [0x61#8, 0x62#8], [], [0x63#8], []] : List (List Byte)).flatten := by decide

/-- Keys of 64 and 65 bytes, and the longest one. -/
theorem witness_HmacInitStartsInnerHash :
    (List.replicate 65535 (0x00#8 : Byte)).length ≤ 65535 ∧ Running State.reset ∧ haltedCore.ctl.fault = true ∧
    ¬ 64 < (List.replicate 64 (0x6b#8 : Byte)).length ∧ 64 < (List.replicate 65 (0x6b#8 : Byte)).length :=
  ⟨Nat.le_of_eq List.length_replicate, by decide⟩

theorem witness_HmacUpdateAbsorbs :
    (List.replicate 65535 (0x00#8 : Byte)).length ≤ 65535 ∧ Running (inPhaseOf .hmacActive) ∧
    (inPhaseOf .hmacActive).ctl.phase = .hmacActive ∧ Running (inPhaseOf .done) ∧ (inPhaseOf .done).ctl.phase = .done ∧
    Running State.reset ∧ State.reset.ctl.phase = .shaActive ∧ haltedCore.ctl.fault = true :=
  ⟨Nat.le_of_eq List.length_replicate, by decide⟩

theorem witness_HmacFinalAnswersMac :
    Running (inPhaseOf .hmacActive) ∧ (inPhaseOf .hmacActive).ctl.phase = .hmacActive ∧
    Running (inPhaseOf .done) ∧ (inPhaseOf .done).ctl.phase = .done ∧ Running State.reset ∧ State.reset.ctl.phase = .shaActive ∧
    haltedCore.ctl.fault = true ∧
    (asked (frameBytes 0x22#8 [0x00#8]) State.reset).host.inbox = .command (frameBytes 0x22#8 [0x00#8]) :: [] ∧
    Running (asked (frameBytes 0x22#8 [0x00#8]) State.reset) := by decide

theorem witness_CommandsComputeHmac : Running State.reset ∧
    (∀ i ∈ [Instr.hmacUpdate abc, .genGetCounter, .hmacUpdate []],
      leavesEngineAlone i = true ∨ (hmacChunk i).isSome = true) ∧
    [Instr.hmacUpdate abc, .genGetCounter, .hmacUpdate []][2]? = some (.hmacUpdate []) := ⟨rfl, by decide⟩

theorem witness_LongKeyEqualsItsDigest : 64 < (List.replicate 65 (0x6b#8 : Byte)).length := by decide

/-- A sequence that ends with an open HMAC, and the empty one. -/
theorem witness_HmacLegalAfterHmacInit : IsResetCore State.reset ∧
    runAll [] State.reset = .next State.reset ∧ Running State.reset ∧
    runAll [.hmacInit abc, .coreStatus] State.reset =
      .next (answered .ok [0x05#8, 0x00#8, 0x00#8]
        (answered .ok [] (setPhase .hmacActive (hmacStart abc State.reset)))) ∧
    lastInitOrFinal [.hmacInit abc, .coreStatus] = some .hmacInit := ⟨reset_isReset, rfl, rfl, rfl, by decide⟩

/-- Numbers that differ in one digit: the units, and the most significant of the seven. -/
theorem witness_ChecksumCatchesOneDigit :
    (∀ j : Nat, j < 7 → (1234567 / 10 ^ j % 10 = 1234569 / 10 ^ j % 10 ↔ j ≠ 0)) ∧
    (∀ j : Nat, j < 7 → (9999999 / 10 ^ j % 10 = 999999 / 10 ^ j % 10 ↔ j ≠ 6)) := by decide

theorem witness_ChecksumCompletesDigitSum : (0 : Nat) < 10000000 ∧ (9999999 : Nat) < 10000000 := by decide

/-- The two lengths next to 20. -/
theorem witness_OtpFormatAnswersCode :
    Running (inPhaseOf .hmacActive) ∧ haltedCore.ctl.fault = true ∧
    (List.replicate 19 (0x00#8 : Byte)).length ≠ 20 ∧ (List.replicate 21 (0x00#8 : Byte)).length ≠ 20 ∧
    (asked (frameBytes 0x30#8 (List.replicate 19 0x00#8)) State.reset).host.inbox =
      .command (frameBytes 0x30#8 (List.replicate 19 0x00#8)) :: [] ∧
    Running (asked (frameBytes 0x30#8 (List.replicate 19 0x00#8)) State.reset) := by decide

/-- Secrets of 0, 19 and 20 bytes, counters 0 and 1, and none of either: a witness for each clause. -/
theorem witness_ConstructMakesNewGenerator :
    Instr.wellFormed (.genConstruct (some (bytes41 20)) (some (Vector.replicate 8 0x00#8))) = true ∧
    malformedPayload [0x04#8] = true ∧ ([0x04#8] : List Byte).length ≤ 65535 ∧
    (asked (frameBytes 0x40#8 [0x04#8]) State.reset).host.inbox = .command (frameBytes 0x40#8 [0x04#8]) :: [] ∧
    Running State.reset ∧ haltedCore.ctl.fault = true ∧
    (∃ b ∈ some ([] : List Byte), b.length < 20) ∧ (∃ b ∈ some (bytes41 19), b.length < 20) ∧
    (∀ b ∈ some (bytes41 20), 20 ≤ b.length) ∧ (∀ b ∈ (none : Option (List Byte)), 20 ≤ b.length) ∧
    (∃ c ∈ some (Vector.replicate 8 (0x00#8 : Byte)), deser State.reset.config.ctrOrder c = 0#64) ∧
    (∀ c ∈ some (#v[0#8, 0#8, 0#8, 0#8, 0#8, 0#8, 0#8, 1#8] : Vector Byte 8), deser State.reset.config.ctrOrder c ≠ 0#64) ∧
    (∀ c ∈ (none : Option (Vector Byte 8)), deser State.reset.config.ctrOrder c ≠ 0#64) := by
  refine ⟨by decide, by decide, by decide, rfl, rfl, rfl, ⟨_, rfl, by decide⟩, ⟨_, rfl, by decide⟩, ?_, ?_, ⟨_, rfl, by decide⟩, ?_, ?_⟩
  all_goals rintro _ ⟨⟩
  all_goals decide

theorem witness_SetSecretValidatesLength :
    (List.replicate 65535 (0x00#8 : Byte)).length ≤ 65535 ∧ Running State.reset ∧ haltedCore.ctl.fault = true ∧
    (bytes41 19).length < 20 ∧ ¬ (bytes41 20).length < 20 := ⟨Nat.le_of_eq List.length_replicate, by decide⟩

theorem witness_SetCounterStoresAnyValue :
    Running State.reset ∧ Running littleCore ∧ haltedCore.ctl.fault = true ∧ (List.replicate 7 (0x00#8 : Byte)).length ≠ 8 ∧
    (List.replicate 9 (0x00#8 : Byte)).length ≠ 8 ∧
    (asked (frameBytes 0x42#8 (List.replicate 7 0x00#8)) State.reset).host.inbox =
      .command (frameBytes 0x42#8 (List.replicate 7 0x00#8)) :: [] ∧
    Running (asked (frameBytes 0x42#8 (List.replicate 7 0x00#8)) State.reset) := by decide

theorem witness_GetCounterGivesBackCounter :
    Running State.reset ∧ Running (counting 5#64) ∧ (counting 5#64).config = State.reset.config ∧ haltedCore.ctl.fault = true ∧
    (asked (frameBytes 0x43#8 [0x00#8]) State.reset).host.inbox = .command (frameBytes 0x43#8 [0x00#8]) :: [] ∧
    Running (asked (frameBytes 0x43#8 [0x00#8]) State.reset) := by decide

theorem witness_CurrentCodeCompletes :
    Running (inPhaseOf .done) ∧ Running littleCore ∧ haltedCore.ctl.fault = true ∧
    (asked (frameBytes 0x44#8 [0x00#8]) State.reset).host.inbox = .command (frameBytes 0x44#8 [0x00#8]) :: [] ∧
    Running (asked (frameBytes 0x44#8 [0x00#8]) State.reset) := by decide

theorem witness_NextCodeAdvancesCounter :
    Running (counting 0xFFFFFFFFFFFFFFFF#64) ∧ Running littleCore ∧ haltedCore.ctl.fault = true ∧
    (asked (frameBytes 0x45#8 [0x00#8]) State.reset).host.inbox = .command (frameBytes 0x45#8 [0x00#8]) :: [] ∧
    Running (asked (frameBytes 0x45#8 [0x00#8]) State.reset) := by decide

theorem witness_CommandsComputeCode : Running State.reset ∧ Running littleCore ∧ Running (counting 0xFFFFFFFFFFFFFFFF#64) := by
  decide

/-- Commands between the two `GEN_CURRENT` that move the engine and the phase, and end on a running core. -/
theorem witness_CurrentCodeIsStable : Running State.reset ∧
    (∀ i ∈ [Instr.sha1Init, .genGetCounter], opcodeOf i ∉ [.genNext, .genSetCounter, .genSetSecret, .genConstruct, .coreReset]) ∧
    ∃ t, runAll [.genCurrent, .sha1Init, .genGetCounter] State.reset = .next t ∧ Running t :=
  ⟨rfl, by decide, _, rfl, rfl⟩

/-- The last counter that R117 allows. -/
theorem witness_NextMatchesFreshGenerator :
    Running (counting 0xFFFFFFFFFFFFFFFE#64) ∧ 20 ≤ (counting 0xFFFFFFFFFFFFFFFE#64).gen.secret.length ∧
    (counting 0xFFFFFFFFFFFFFFFE#64).gen.counter.toNat + 1 < 2 ^ 64 := by decide

theorem witness_StepKeepsInvariants :
    Inv (asked [0x01#8, 0x00#8, 0x00#8] haltedCore) ∧ Inv (askedReset haltedCore) ∧ Inv State.reset ∧
    step (asked [0x01#8, 0x00#8, 0x00#8] haltedCore) =
      .next (answered .ok [0x86#8, 0x01#8, 0x12#8] (takeInput [] haltedCore)) ∧ step State.reset = .next State.reset := by
  refine ⟨?_, ?_, ?_, rfl, rfl⟩ <;> constructor <;> decide

/-- The least `COUNT` of an open HMAC, and the most data that does not wrap it. -/
theorem witness_CountBoundHoldsUntilWrap :
    Running (setPhase .hmacActive (buffered 0 0x00000000#32 0x00000200#32)) ∧
    (setPhase .hmacActive (buffered 0 0x00000000#32 0x00000200#32)).ctl.phase = .hmacActive ∧
    512 ≤ (engineCount (setPhase .hmacActive (buffered 0 0x00000000#32 0x00000200#32)).engine).toNat ∧
    (engineCount (setPhase .hmacActive (buffered 0 0x00000000#32 0x00000200#32)).engine).toNat + 8 * abc.length < 2 ^ 64 ∧
    ∃ t, exec (.hmacUpdate abc) (setPhase .hmacActive (buffered 0 0x00000000#32 0x00000200#32)) = .next t :=
  ⟨rfl, rfl, by decide, by decide, _, rfl⟩

/-- Two states that differ in a stale byte of `BUF` and in `KEY`, and two in `DONE` that differ in the whole engine. -/
theorem witness_HiddenRemainsUnobservable :
    SameVisible (buffered 0 0#32 0#32) { State.reset with hmac := startContext abc } ∧
    SameVisible (inPhaseOf .done) (setPhase .done (buffered 5 7#32 9#32)) := by
  refine ⟨⟨rfl, rfl, rfl, rfl, fun _ => ⟨rfl, rfl, rfl, rfl, ?_⟩, fun h => ?_⟩,
    ⟨rfl, rfl, rfl, rfl, fun h => absurd rfl h, fun h => ?_⟩⟩
  · exact fun i h => absurd h (Nat.not_lt_zero _)
  · exact absurd h (by decide)
  · exact absurd h (by decide)

/-- Two states with different secrets and engines. -/
theorem witness_OnlyFinalsAnswerFromSecrets :
    SameButHidden State.reset { buffered 5 7#32 9#32 with gen := { State.reset.gen with secret := bytes41 20 } } ∧
    opcodeOf .genGetCounter ∉ [Opcode.sha1Final, .hmacFinal, .genCurrent, .genNext] :=
  ⟨⟨rfl, rfl, rfl, rfl, rfl⟩, by decide⟩

/-- Inputs that hold a frame, a reset event and a malformed frame. -/
theorem witness_FiniteListHasFiniteRun :
    ∀ f : List Byte, HostInput.command f ∈
      { State.reset with host := { inbox := [.command [0x01#8, 0x00#8, 0x00#8], .reset,
        .command [0x10#8, 0x00#8, 0x01#8, 0x78#8]], outbox := [] } }.host.inbox → isFrame f = true := by
  intro f h
  rcases List.mem_cons.mp h with h | h
  · cases h; decide
  · rcases List.mem_cons.mp h with h | h
    · cases h
    · cases List.mem_singleton.mp h; decide

theorem witness_IdleCoreHoldsState : State.reset.host.inbox = [] := rfl

end Sys2Proof.Tests
end

section
/-! PROOFS of the scope statements (00_scope): the 8-byte counter form as a number in base 256 (R9), and the single step (R11). -/

namespace Sys2Proof.Machine

/-! ### The 8-byte counter form (R9, R40) -/

theorem toNat_append_byte {n : Nat} (x : BitVec n) (b : Byte) : (x ++ b).toNat = x.toNat * 256 + b.toNat := by
  rw [BitVec.toNat_append, Nat.shiftLeft_eq, Nat.mul_comm, ← Nat.two_pow_add_eq_or_of_lt b.isLt, Nat.mul_comm]

/-- The big form read as a number in base 256, by Horner's rule. -/
theorem valBe64_toNat (b : Vector Byte 8) : (valBe64 b).toNat =
    ((((((b[0].toNat * 256 + b[1].toNat) * 256 + b[2].toNat) * 256 + b[3].toNat) * 256 + b[4].toNat) * 256 +
      b[5].toNat) * 256 + b[6].toNat) * 256 + b[7].toNat := by
  simp only [valBe64, toNat_append_byte]

/-- Putting one more base-256 digit of `n` after the digits above it. -/
theorem div_append_digit (n k : Nat) : n / 2 ^ (k + 8) * 256 + n / 2 ^ k % 256 = n / 2 ^ k := by
  rw [Nat.pow_add, ← Nat.div_div_eq_div_mul, Nat.div_add_mod']

theorem getElem_bytesBe64 (v : Word64) (i : Nat) (h : i < 8) :
    (bytesBe64 v)[i] = v.extractLsb' (8 * (7 - i)) 8 := by
  interval_cases i <;> rfl

theorem getElem_bytesBe64_toNat (v : Word64) (i : Nat) (h : i < 8) :
    (bytesBe64 v)[i].toNat = v.toNat / 2 ^ (8 * (7 - i)) % 256 := by
  rw [getElem_bytesBe64, BitVec.extractLsb'_toNat, Nat.shiftRight_eq_div_pow]

/-- The little form is the big form read backwards, so that every fact about the one gives the other's. -/
theorem bytesLe64_eq_reverse (v : Word64) : bytesLe64 v = (bytesBe64 v).reverse := by
  simp [bytesLe64, bytesBe64]

theorem valLe64_eq_reverse (b : Vector Byte 8) : valLe64 b = valBe64 b.reverse := by
  simp [valLe64, valBe64]

theorem getElem_bytesLe64_toNat (v : Word64) (i : Nat) (h : i < 8) :
    (bytesLe64 v)[i].toNat = v.toNat / 2 ^ (8 * i) % 256 := by
  have hi : 7 - (8 - 1 - i) = i := by omega
  simp only [bytesLe64_eq_reverse, Vector.getElem_reverse, getElem_bytesBe64_toNat, hi]

theorem valBe64_bytesBe64 (v : Word64) : valBe64 (bytesBe64 v) = v := by
  apply BitVec.eq_of_toNat_eq
  have top : v.toNat / 2 ^ 56 % 256 = v.toNat / 2 ^ 56 := by omega
  simp only [valBe64_toNat, getElem_bytesBe64_toNat, Nat.reduceSub, Nat.reduceMul, top]
  iterate 7 rw [div_append_digit]
  exact Nat.div_one _

theorem bytesBe64_valBe64 (b : Vector Byte 8) : bytesBe64 (valBe64 b) = b := by
  apply Vector.ext
  intro i hi
  apply BitVec.eq_of_toNat_eq
  rw [getElem_bytesBe64_toNat, valBe64_toNat]
  interval_cases i <;> omega

@[simp] theorem deser_ser (o : CtrOrder) (v : Word64) : deser o (ser o v) = v := by
  cases o with
  | big => exact valBe64_bytesBe64 v
  | little =>
    show valLe64 (bytesLe64 v) = v
    rw [valLe64_eq_reverse, bytesLe64_eq_reverse, Vector.reverse_reverse, valBe64_bytesBe64]

@[simp] theorem ser_deser (o : CtrOrder) (b : Vector Byte 8) : ser o (deser o b) = b := by
  cases o with
  | big => exact bytesBe64_valBe64 b
  | little =>
    show bytesLe64 (valLe64 b) = b
    rw [valLe64_eq_reverse, bytesLe64_eq_reverse, bytesBe64_valBe64, Vector.reverse_reverse]

/-- Settles O47: each order's bytes are the base-256 digits of the value, from which both inverses follow. -/
theorem counterFormsInvert : Obligations.CounterFormsInvert :=
  ⟨deser_ser, ser_deser, fun v i => ⟨getElem_bytesBe64_toNat v i i.isLt, getElem_bytesLe64_toNat v i i.isLt⟩⟩

/-! ### One step (R11) -/

theorem step_of_inbox_nil {s : State} (h : s.host.inbox = []) : step s = .next s := by
  simp only [step, h, idle_eq]

theorem step_of_decode_ok {s : State} {frame : List Byte} {rest : List HostInput} {i : Instr}
    (h : s.host.inbox = .command frame :: rest) (hd : decode frame = .ok i) : step s = exec i (takeInput rest s) := by
  simp only [step, h, hd]

/-- Settles O12: the state that `exec` is given differs from `s` in the taken input alone. -/
theorem stepRunsDecodedCommand : Obligations.StepRunsDecodedCommand :=
  fun _ _ _ _ h hd => step_of_decode_ok h hd

/-- Settles O59: a step with an empty inbox is the idle step. -/
theorem idleCoreHoldsState : Obligations.IdleCoreHoldsState :=
  fun _ h => step_of_inbox_nil h

end Sys2Proof.Machine
end

section
/-! PROOFS of the state statements (10_state): the reset state (R31), what a command can do and what it leaves
unchanged (R13, R26), the invariants (R29), and what no command can observe (R30). -/

namespace Sys2Proof.Machine

/-! ### The reset state (R31) -/

theorem resetWith_isResetCore (c : Config) : IsResetCore (State.resetWith c) where
  h := rfl
  buf i := Vector.getElem_replicate i.isLt
  bufLen := rfl
  countHi := rfl
  countLo := rfl
  key i := Vector.getElem_replicate i.isLt
  keyLen := rfl
  secret := rfl
  counter := rfl
  defsec := rfl
  phase := rfl
  fault := rfl
  fcause := rfl
  fop := rfl

/-- Settles O1: `CORE_RESET` leaves the reset values of the configuration it finds. -/
theorem resetLeavesSpecValues : Obligations.ResetLeavesSpecValues :=
  ⟨resetWith_isResetCore _, resetWith_isResetCore, fun s => ⟨_, rfl, { resetWith_isResetCore s.config with }⟩⟩

/-! ### What a command can do

One constructor per way a command can end (60_exceptions R128), with the check that leads there and the whole next state. -/

/-- `Effect s i t`: the command `i` takes the state `s` to `t`. -/
inductive Effect (s : State) : Instr → State → Prop
  | halted {i : Instr} (hf : s.ctl.fault = true) (hr : i ≠ .coreReset) (hs : i ≠ .coreStatus) :
      Effect s i (answered .halted [] s)
  | faulted {i : Instr} {c : FaultCause} (hr : Running s) (hc : phaseTable (opcodeOf i) s.ctl.phase = .faults c) :
      Effect s i (answered (.faulted c) [] (recordFault (opcodeOf i) c s))
  | coreReset : Effect s .coreReset (answered .ok [] (resetCore s))
  | coreStatus : Effect s .coreStatus (answered .ok [statusByte s, fcauseCode s.ctl.fcause, s.ctl.fop] s)
  | sha1Init (hr : Running s) :
      Effect s .sha1Init (answered .ok [] (setPhase .shaActive { s with engine := engineInit }))
  | sha1Update (data : List Byte) (hr : Running s) (hp : s.ctl.phase = .shaActive) :
      Effect s (.sha1Update data) (answered .ok [] { s with engine := engineAbsorb s.engine data })
  | sha1Final (hr : Running s) (hp : s.ctl.phase = .shaActive) :
      Effect s .sha1Final (answered .ok (finishDigest s.engine).toList
        (setPhase .done { s with engine := engineFinish s.engine }))
  | hmacInit (key : List Byte) (hr : Running s) :
      Effect s (.hmacInit key) (answered .ok [] (setPhase .hmacActive (hmacStart key s)))
  | hmacUpdate (data : List Byte) (hr : Running s) (hp : s.ctl.phase = .hmacActive) :
      Effect s (.hmacUpdate data) (answered .ok [] { s with engine := engineAbsorb s.engine data })
  | hmacFinal (hr : Running s) (hp : s.ctl.phase = .hmacActive) :
      Effect s .hmacFinal (answered .ok (finishMac s.hmac s.engine).toList
        (setPhase .done { s with engine := hmacFinish s.hmac s.engine }))
  | otpFormat (hmac : Vector Byte 20) (hr : Running s) :
      Effect s (.otpFormat hmac) (answered .ok (formatCode hmac).toList s)
  | genConstruct (secret : Option (List Byte)) (ctr : Option (Vector Byte 8)) (hr : Running s)
      (hok : operandCheck s.config.ctrOrder (.genConstruct secret ctr) = .ok) :
      Effect s (.genConstruct secret ctr)
        (answered .ok [] { s with gen := constructed secret (ctr.map (deser s.config.ctrOrder)) })
  | genConstructRefused (secret : Option (List Byte)) (ctr : Option (Vector Byte 8)) (hr : Running s)
      (hbad : operandCheck s.config.ctrOrder (.genConstruct secret ctr) ≠ .ok) :
      Effect s (.genConstruct secret ctr)
        (answered (operandCheck s.config.ctrOrder (.genConstruct secret ctr)) [] s)
  | genSetSecret (secret : List Byte) (hr : Running s)
      (hok : operandCheck s.config.ctrOrder (.genSetSecret secret) = .ok) :
      Effect s (.genSetSecret secret)
        (answered .ok [] { s with gen := { s.gen with secret := secret, defsec := false } })
  | genSetSecretRefused (secret : List Byte) (hr : Running s)
      (hbad : operandCheck s.config.ctrOrder (.genSetSecret secret) ≠ .ok) :
      Effect s (.genSetSecret secret) (answered (operandCheck s.config.ctrOrder (.genSetSecret secret)) [] s)
  | genSetCounter (bytes : Vector Byte 8) (hr : Running s) :
      Effect s (.genSetCounter bytes) (answered .ok [] (setCounter (deser s.config.ctrOrder bytes) s))
  | genGetCounter (hr : Running s) :
      Effect s .genGetCounter (answered .ok (ser s.config.ctrOrder s.gen.counter).toList s)
  | genCurrent (hr : Running s) :
      Effect s .genCurrent (answered .ok (genCodeBytes s).toList (setPhase .done (genCode s)))
  | genNext (hr : Running s) :
      Effect s .genNext (answered .ok (genCodeBytes (setCounter (s.gen.counter + 1#64) s)).toList
        (setPhase .done (genCode (setCounter (s.gen.counter + 1#64) s))))

/-- `Ends s i r`: the result `r` is a next state, and one that `i` may lead to from `s`. -/
def Ends (s : State) (i : Instr) (r : Result) : Prop := ∃ t, r = .next t ∧ Effect s i t

theorem Ends.respond {s u : State} {i : Instr} {st : Status} {p : List Byte} (h : Effect s i (answered st p u)) :
    Ends s i (respond st p u) := ⟨_, rfl, h⟩

theorem Ends.unlessHalted {s : State} {run : State → Result} (i : Instr) (h : Running s → Ends s i (run s))
    (hi : i ≠ .coreReset := by simp) (hi' : i ≠ .coreStatus := by simp) : Ends s i (unlessHalted s run) := by
  cases hf : s.ctl.fault with
  | true => exact ⟨_, unlessHalted_halted hf run, .halted hf hi hi'⟩
  | false => rw [unlessHalted_running hf]; exact h hf

/-- A phase check that passes is in the family's own phase (R26). -/
theorem phase_of_phaseCheck_none {own p : Phase} (h : phaseCheck own p = none) : p = own := by
  cases own <;> cases p <;> simp_all [phaseCheck]

theorem inPhase_of_phaseCheck_some {own : Phase} {op : Opcode} {s : State} {c : FaultCause}
    (h : phaseCheck own s.ctl.phase = some c) (run : State → Result) :
    inPhase own op s run = .next (answered (.faulted c) [] (recordFault op c s)) := by
  simp only [inPhase, h, raiseFault_eq]

theorem inPhase_of_phaseCheck_none {own : Phase} {op : Opcode} {s : State}
    (h : phaseCheck own s.ctl.phase = none) (run : State → Result) : inPhase own op s run = run s := by
  simp only [inPhase, h]

/-- `htable` says that the phase check fails where the phase table says so (R26). -/
theorem Ends.inPhase {s : State} {i : Instr} {own : Phase} {run : State → Result} (hr : Running s)
    (htable : ∀ p c, phaseCheck own p = some c → phaseTable (opcodeOf i) p = .faults c)
    (h : s.ctl.phase = own → Ends s i (run s)) : Ends s i (inPhase own (opcodeOf i) s run) := by
  cases hc : phaseCheck own s.ctl.phase with
  | some c => exact ⟨_, inPhase_of_phaseCheck_some hc run, .faulted hr (htable _ _ hc)⟩
  | none => rw [inPhase_of_phaseCheck_none hc]; exact h (phase_of_phaseCheck_none hc)

/-- The phase check is the phase table's for the four UPDATE and FINAL commands (R26). -/
theorem phaseTable_of_phaseCheck_sha {op : Opcode} (hop : op = .sha1Update ∨ op = .sha1Final) (p : Phase)
    (c : FaultCause) (h : phaseCheck .shaActive p = some c) : phaseTable op p = .faults c := by
  obtain rfl | rfl := hop <;> cases p <;> simp_all [phaseCheck, phaseTable]

theorem phaseTable_of_phaseCheck_hmac {op : Opcode} (hop : op = .hmacUpdate ∨ op = .hmacFinal) (p : Phase)
    (c : FaultCause) (h : phaseCheck .hmacActive p = some c) : phaseTable op p = .faults c := by
  obtain rfl | rfl := hop <;> cases p <;> simp_all [phaseCheck, phaseTable]

/-- Only the four UPDATE and FINAL commands fault (R26, R129). -/
theorem updateOrFinal_of_faults {op : Opcode} {p : Phase} {c : FaultCause} (h : phaseTable op p = .faults c) :
    op = .sha1Update ∨ op = .sha1Final ∨ op = .hmacUpdate ∨ op = .hmacFinal := by
  cases op <;> simp_all [phaseTable]

theorem secretTooShort_iff (secret : List Byte) : secretTooShort secret = true ↔ secret.length < 20 :=
  decide_eq_true_iff

theorem counterTooSmall_iff (v : Word64) : counterTooSmall v = true ↔ v = 0#64 := by
  simp [counterTooSmall, ← BitVec.toNat_inj]

/-- The operand check of the statements is the one `GEN_CONSTRUCT` makes (R106, R132 item 5). -/
theorem operandCheck_genConstruct (o : CtrOrder) (secret : Option (List Byte)) (ctr : Option (Vector Byte 8)) :
    operandCheck o (.genConstruct secret ctr) =
      if secret.any secretTooShort then .invalidSecret
      else if (ctr.map (deser o)).any counterTooSmall then .invalidCounter else .ok := by
  cases secret <;> cases ctr <;> simp [operandCheck, secretTooShort_iff, counterTooSmall_iff]

theorem operandCheck_genSetSecret (o : CtrOrder) (secret : List Byte) :
    operandCheck o (.genSetSecret secret) = if secretTooShort secret then .invalidSecret else .ok := by
  simp [operandCheck, secretTooShort_iff]

theorem execGenConstruct_ends (secret : Option (List Byte)) (ctr : Option (Vector Byte 8)) (s : State) :
    Ends s (.genConstruct secret ctr) (execGenConstruct secret ctr s) := by
  refine .unlessHalted _ fun hr => ?_
  have hcheck := operandCheck_genConstruct s.config.ctrOrder secret ctr
  dsimp only
  split
  · rw [if_pos ‹_›] at hcheck
    exact hcheck ▸ .respond (.genConstructRefused secret ctr hr (by simp [hcheck]))
  · rw [if_neg ‹_›] at hcheck
    split
    · rw [if_pos ‹_›] at hcheck
      exact hcheck ▸ .respond (.genConstructRefused secret ctr hr (by simp [hcheck]))
    · rw [if_neg ‹_›] at hcheck
      exact .respond (.genConstruct secret ctr hr hcheck)

theorem execGenSetSecret_ends (secret : List Byte) (s : State) :
    Ends s (.genSetSecret secret) (execGenSetSecret secret s) := by
  refine .unlessHalted _ fun hr => ?_
  have hcheck := operandCheck_genSetSecret s.config.ctrOrder secret
  split
  · rw [if_pos ‹_›] at hcheck
    exact hcheck ▸ .respond (.genSetSecretRefused secret hr (by simp [hcheck]))
  · rw [if_neg ‹_›] at hcheck
    exact .respond (.genSetSecret secret hr hcheck)

/-- Every command answers a next state, and one of the ways above (R128). -/
theorem exec_ends (i : Instr) (s : State) : Ends s i (exec i s) := by
  cases i with
  | coreReset => exact ⟨_, rfl, .coreReset⟩
  | coreStatus => exact ⟨_, rfl, .coreStatus⟩
  | sha1Init =>
    rw [exec, execSha1Init]
    exact .unlessHalted _ fun hr => ⟨_, rfl, .sha1Init hr⟩
  | sha1Update data =>
    rw [exec, execSha1Update]
    exact .unlessHalted _ fun hr =>
      .inPhase hr (phaseTable_of_phaseCheck_sha (.inl rfl)) fun hp => ⟨_, rfl, .sha1Update data hr hp⟩
  | sha1Final =>
    rw [exec, execSha1Final]
    exact .unlessHalted _ fun hr =>
      .inPhase hr (phaseTable_of_phaseCheck_sha (.inr rfl)) fun hp => ⟨_, rfl, .sha1Final hr hp⟩
  | hmacInit key =>
    rw [exec, execHmacInit]
    exact .unlessHalted _ fun hr => ⟨_, rfl, .hmacInit key hr⟩
  | hmacUpdate data =>
    rw [exec, execHmacUpdate]
    exact .unlessHalted _ fun hr =>
      .inPhase hr (phaseTable_of_phaseCheck_hmac (.inl rfl)) fun hp => ⟨_, rfl, .hmacUpdate data hr hp⟩
  | hmacFinal =>
    rw [exec, execHmacFinal]
    exact .unlessHalted _ fun hr =>
      .inPhase hr (phaseTable_of_phaseCheck_hmac (.inr rfl)) fun hp => ⟨_, rfl, .hmacFinal hr hp⟩
  | otpFormat hmac =>
    rw [exec, execOtpFormat]
    exact .unlessHalted _ fun hr => ⟨_, rfl, .otpFormat hmac hr⟩
  | genConstruct secret ctr => exact execGenConstruct_ends secret ctr s
  | genSetSecret secret => exact execGenSetSecret_ends secret s
  | genSetCounter bytes =>
    rw [exec, execGenSetCounter]
    exact .unlessHalted _ fun hr => ⟨_, rfl, .genSetCounter bytes hr⟩
  | genGetCounter =>
    rw [exec, execGenGetCounter]
    exact .unlessHalted _ fun hr => ⟨_, rfl, .genGetCounter hr⟩
  | genCurrent =>
    rw [exec, execGenCurrent]
    exact .unlessHalted _ fun hr => ⟨_, rfl, .genCurrent hr⟩
  | genNext =>
    rw [exec, execGenNext]
    exact .unlessHalted _ fun hr => ⟨_, rfl, .genNext hr⟩

theorem effect_of_exec {i : Instr} {s t : State} (h : exec i s = .next t) : Effect s i t := by
  obtain ⟨u, hu, he⟩ := exec_ends i s
  cases hu.symm.trans h
  exact he

/-! ### The phase table and the written-by column (R13, R26) -/

/-- Settles O16: outside the faults, which the table gives, each command writes the phase of its row. -/
theorem phaseTableIsFollowed : Obligations.PhaseTableIsFollowed := by
  intro i s hr
  obtain ⟨t, ht, he⟩ := exec_ends i s
  refine ⟨t, ht, ?_⟩
  cases he with
  | halted hf => exact absurd hf (by simp [hr])
  | faulted _ hc => simp [hc]
  | coreReset => exact ⟨rfl, rfl⟩
  | sha1Update _ _ hp | sha1Final _ hp | hmacUpdate _ _ hp | hmacFinal _ hp => simp [opcodeOf, phaseTable, hp, hr]
  | _ => simp [opcodeOf, phaseTable, hr]

/-- Settles O20: a command that faults is one of the four that may write the fault registers, `SHA1_FINAL` keeps `BUFLEN` and
`COUNT` because `EngineFinish` does, and the other outcomes write what their next state shows. -/
theorem everyCommandsFrame : Obligations.EveryCommandsFrame := by
  intro i s t h
  cases effect_of_exec h with
  | faulted _ hc => rcases updateOrFinal_of_faults hc with hop | hop | hop | hop <;> simp [hop]
  | sha1Final => simp [opcodeOf, engineFinish_bufLen, engineFinish_countHi, engineFinish_countLo]
  | halted | coreStatus | otpFormat => simp
  | _ => simp [opcodeOf]

/-! ### The engine's count while it is open (R17, R18, R29 item 2) -/

/-- `BUFLEN = (COUNT div 8) mod 64`, and `COUNT` is a whole number of bytes (R29 item 2). -/
def Engine.Counted (e : Engine) : Prop :=
  e.bufLen.val = (engineCount e).toNat / 8 % 64 ∧ (engineCount e).toNat % 8 = 0

theorem engineInit_counted : engineInit.Counted := ⟨rfl, rfl⟩

/-- Eight more on both sides; a wrap of `COUNT` takes off a multiple of 512. -/
theorem Engine.Counted.absorbByte {e : Engine} (h : e.Counted) (b : Byte) : (absorbByte e b).Counted := by
  obtain ⟨hlen, hwhole⟩ := h
  have hsum : (engineCount e + 8#64).toNat = ((engineCount e).toNat + 8) % 2 ^ 64 := BitVec.toNat_add ..
  constructor
  · rw [absorbByte_bufLen, absorbByte_count, hsum, hlen]; omega
  · rw [absorbByte_count, hsum]; omega

theorem Engine.Counted.engineAbsorb {e : Engine} (h : e.Counted) (data : List Byte) : (engineAbsorb e data).Counted := by
  induction data generalizing e with
  | nil => exact h
  | cons b bs ih => exact ih (h.absorbByte b)

theorem startEngine_counted (key : List Byte) : (startEngine key).Counted := by
  unfold startEngine; exact engineInit_counted.engineAbsorb _

/-- Absorbing adds eight to `COUNT` per byte (R66). -/
theorem engineAbsorb_count (e : Engine) (data : List Byte) :
    engineCount (engineAbsorb e data) = engineCount e + BitVec.ofNat 64 (8 * data.length) := by
  induction data generalizing e with
  | nil => simp
  | cons b bs ih =>
    rw [engineAbsorb_cons, ih, absorbByte_count, BitVec.add_assoc, ← BitVec.ofNat_add, List.length_cons,
      Nat.mul_succ, Nat.add_comm 8]

/-! ### `KEY` beyond `KEYLEN` (R20, R29 item 5) -/

/-- `KEY[KEYLEN..64)` is all zero (R29 item 5). -/
def HmacContext.Padded (k : HmacContext) : Prop := ∀ i : Fin 64, k.keyLen.val ≤ i.val → k.key[i] = 0x00#8

theorem keyContext_padded (k : List Byte) (h : k.length ≤ keyMax) : (keyContext k h).Padded := by
  intro i hi
  simpa using List.getD_eq_default _ _ hi

theorem startContext_padded (key : List Byte) : (startContext key).Padded := by
  by_cases h : key.length ≤ keyMax
  · rw [startContext_short h]; exact keyContext_padded _ _
  · rw [startContext_long h]; exact keyContext_padded _ _

/-! ### Commands out of frames are well formed (R48, R50, R55) -/

theorem wellFormed_of_decodeBare {i j : Instr} {payload : List Byte} (hj : j.wellFormed = true)
    (h : decodeBare j payload = .ok i) : i.wellFormed = true := by
  unfold decodeBare at h
  split at h
  · cases h; exact hj
  · cases h

theorem wellFormed_of_decodeFixed {n : Nat} {f : Vector Byte n → Instr} {i : Instr} {payload : List Byte}
    (hf : ∀ v, (f v).wellFormed = true) (h : decodeFixed f payload = .ok i) : i.wellFormed = true := by
  unfold decodeFixed at h
  split at h
  · cases h; exact hf _
  · cases h

theorem wellFormed_genConstruct_both {secret : List Byte} {ctr : Vector Byte 8} :
    (Instr.genConstruct (some secret) (some ctr)).wellFormed = true ↔ 9 + secret.length ≤ 65535 := decide_eq_true_iff

theorem wellFormed_genConstruct_secret {secret : List Byte} :
    (Instr.genConstruct (some secret) none).wellFormed = true ↔ 1 + secret.length ≤ 65535 := decide_eq_true_iff

theorem wellFormed_of_decodeSecretPart {flags : Byte} {ctr : Option (Vector Byte 8)} {rest : List Byte} {i : Instr}
    (hlen : (Instr.genConstruct (some rest) ctr).wellFormed = true) (h : decodeSecretPart flags ctr rest = .ok i) :
    i.wellFormed = true := by
  unfold decodeSecretPart at h
  split at h
  · cases h; exact hlen
  · split at h
    · cases h; rfl
    · cases h

theorem wellFormed_of_decodeConstruct {payload : List Byte} {i : Instr} (hlen : payload.length ≤ 65535)
    (h : decodeConstruct payload = .ok i) : i.wellFormed = true := by
  unfold decodeConstruct at h
  split at h
  · cases h
  · rename_i flags rest
    rw [List.length_cons] at hlen
    split at h
    · cases h
    · split at h
      · split at h
        · rename_i ctr hctr
          have h8 : (rest.take 8).length = 8 := by rw [← toList_of_exactly hctr, Vector.length_toList]
          refine wellFormed_of_decodeSecretPart (wellFormed_genConstruct_both.mpr ?_) h
          rw [List.length_take] at h8
          rw [List.length_drop]; omega
        · cases h
      · exact wellFormed_of_decodeSecretPart (wellFormed_genConstruct_secret.mpr (by omega)) h

theorem wellFormed_of_decodePayload {op : Opcode} {payload : List Byte} {i : Instr} (hlen : payload.length ≤ 65535)
    (h : decodePayload op payload = .ok i) : i.wellFormed = true := by
  cases op with
  | sha1Update | hmacInit | hmacUpdate | genSetSecret => cases h; exact decide_eq_true hlen
  | otpFormat | genSetCounter => exact wellFormed_of_decodeFixed (fun _ => rfl) h
  | genConstruct => exact wellFormed_of_decodeConstruct hlen h
  | _ => exact wellFormed_of_decodeBare rfl h

/-- What a frame decodes to fits a frame: `LEN` has 16 bits (R48). -/
theorem wellFormed_of_decode {frame : List Byte} {i : Instr} (h : decode frame = .ok i) : i.wellFormed = true := by
  unfold decode at h
  split at h
  · split at h
    · rename_i hlen
      split at h
      · exact wellFormed_of_decodePayload (hlen ▸ lengthField_le ..) h
      · cases h
    · cases h
  · cases h

/-! ### What each update of the state does to the invariants (R29) -/

theorem Inv.answered {s : State} (h : Inv s) (st : Status) (p : List Byte) : Inv (answered st p s) := { h with }

theorem Inv.takeInput {s : State} (h : Inv s) (rest : List HostInput) : Inv (takeInput rest s) := { h with }

theorem Inv.recordFault {s : State} (h : Inv s) (op : Opcode) (c : FaultCause) : Inv (recordFault op c s) :=
  { h with causeKnown := by simp, fopZero := by simp }

/-- The engine and the HMAC registers are bound only in the phase that has them open. -/
theorem Inv.withEngine {s : State} (h : Inv s) (p : Phase) (e : Engine) (k : HmacContext)
    (he : p ≠ .done → e.Counted) (hk : p = .hmacActive → k.Padded) :
    Inv (setPhase p { s with engine := e, hmac := k }) :=
  { h with counted := he, keyPadded := hk }

theorem Inv.withGen {s : State} (h : Inv s) (g : Generator) (hlong : 20 ≤ g.secret.length)
    (hfits : g.secret.length ≤ 65535) (hplace : g.defsec = true → g.secret = Config.defaultSecret) :
    Inv { s with gen := g } :=
  { h with secretLong := hlong, secretFits := hfits, placeholder := hplace }

theorem Inv.setCounter {s : State} (h : Inv s) (v : Word64) : Inv (setCounter v s) :=
  h.withGen _ h.secretLong h.secretFits h.placeholder

theorem inv_resetWith (c : Config) : Inv (State.resetWith c) where
  counted _ := engineInit_counted
  secretLong := Nat.le_refl 20
  secretFits := (by decide : 20 ≤ 65535)
  causeKnown := ⟨fun _ => rfl, fun _ => rfl⟩
  fopZero _ := rfl
  keyPadded := nofun
  placeholder _ := rfl

/-- Settles O54: the reset state has an empty engine, a zero key and the placeholder secret. -/
theorem resetMeetsInvariants : Obligations.ResetMeetsInvariants := inv_resetWith Config.default

theorem inv_resetCore (s : State) : Inv (resetCore s) := { inv_resetWith s.config with }

theorem Inv.absorb {s : State} (h : Inv s) (hp : s.ctl.phase ≠ .done) (data : List Byte) :
    Inv { s with engine := engineAbsorb s.engine data } :=
  h.withEngine s.ctl.phase (engineAbsorb s.engine data) s.hmac
    (fun _ => Engine.Counted.engineAbsorb (h.counted hp) data) h.keyPadded

/-- A code leaves the core in `DONE` and the generator as it was (R111). -/
theorem Inv.genCode {s : State} (h : Inv s) : Inv (setPhase .done (genCode s)) :=
  h.withEngine .done _ _ (fun hd => absurd rfl hd) nofun

/-! ### What the operand check and the frame ensure of a secret (R22, R50, R125) -/

theorem long_of_operandCheck_genSetSecret {o : CtrOrder} {secret : List Byte}
    (h : operandCheck o (.genSetSecret secret) = .ok) : 20 ≤ secret.length := by
  by_contra hlt
  simp [operandCheck_genSetSecret, secretTooShort_iff, Nat.lt_of_not_le hlt] at h

theorem long_of_operandCheck_genConstruct {o : CtrOrder} {secret : List Byte} {ctr : Option (Vector Byte 8)}
    (h : operandCheck o (.genConstruct (some secret) ctr) = .ok) : 20 ≤ secret.length := by
  by_contra hlt
  simp [operandCheck_genConstruct, secretTooShort_iff, Nat.lt_of_not_le hlt] at h

theorem length_le_of_wellFormed_genConstruct {secret : List Byte} {ctr : Option (Vector Byte 8)}
    (h : (Instr.genConstruct (some secret) ctr).wellFormed = true) : secret.length ≤ 65535 := by
  cases ctr with
  | none => have := wellFormed_genConstruct_secret.mp h; omega
  | some => have := wellFormed_genConstruct_both.mp h; omega

theorem Inv.construct {s : State} (h : Inv s) {o : CtrOrder} {secret : Option (List Byte)} {ctr : Option (Vector Byte 8)}
    (hok : operandCheck o (.genConstruct secret ctr) = .ok) (hwf : (Instr.genConstruct secret ctr).wellFormed = true)
    (counter : Option Word64) : Inv { s with gen := constructed secret counter } := by
  cases secret with
  | none => exact h.withGen _ (Nat.le_refl 20) (by decide : 20 ≤ 65535) fun _ => rfl
  | some secret =>
    exact h.withGen _ (long_of_operandCheck_genConstruct hok) (length_le_of_wellFormed_genConstruct hwf) nofun

/-! ### The invariants are kept (R29) -/

/-- Every command that a frame can carry keeps the invariants. -/
theorem Inv.of_exec {s t : State} {i : Instr} (h : Inv s) (hwf : i.wellFormed = true) (he : exec i s = .next t) :
    Inv t := by
  cases effect_of_exec he with
  | coreReset => exact (inv_resetCore s).answered _ _
  | faulted => exact (h.recordFault _ _).answered _ _
  | sha1Init => exact (h.withEngine .shaActive engineInit s.hmac (fun _ => engineInit_counted) nofun).answered _ _
  | hmacInit key =>
    exact (h.withEngine .hmacActive (startEngine key) (startContext key) (fun _ => startEngine_counted key)
      fun _ => startContext_padded key).answered _ _
  | sha1Update data _ hp | hmacUpdate data _ hp => exact (h.absorb (by simp [hp]) data).answered _ _
  | sha1Final | hmacFinal => exact (h.withEngine .done _ s.hmac (fun hd => absurd rfl hd) nofun).answered _ _
  | genConstruct secret ctr _ hok => exact (h.construct hok hwf _).answered _ _
  | genSetSecret secret _ hok =>
    exact (h.withGen { s.gen with secret := secret, defsec := false } (long_of_operandCheck_genSetSecret hok)
      (decide_eq_true_iff.mp hwf) nofun).answered _ _
  | genSetCounter => exact (h.setCounter _).answered _ _
  | genCurrent => exact h.genCode.answered _ _
  | genNext => exact (h.setCounter _).genCode.answered _ _
  | halted | coreStatus | otpFormat | genConstructRefused | genSetSecretRefused | genGetCounter => exact h.answered _ _

/-- Settles O53: the commands and the reset event keep the invariants; an idle step and a rejected frame write nothing of
the core. -/
theorem stepKeepsInvariants : Obligations.StepKeepsInvariants := by
  intro s t h ht
  rcases step_cases s with ⟨-, hs⟩ | ⟨rest, -, hs⟩ | ⟨frame, rest, i, -, hd, hs⟩ | ⟨frame, rest, e, -, -, hs⟩ <;>
    rw [hs] at ht
  · cases ht; exact h
  · cases ht; exact inv_resetCore _
  · exact (h.takeInput rest).of_exec (wellFormed_of_decode hd) ht
  · rcases rejectFrame_cases frame e (takeInput rest s) with ⟨-, hr⟩ | ⟨-, hr⟩ | ⟨-, hr⟩ <;> rw [hr] at ht <;> cases ht
    · exact (h.takeInput rest).answered _ _
    · exact (h.takeInput rest).answered _ _

/-! ### `COUNT ≥ 512` and its wrap (R29 item 5, R73) -/

theorem exec_hmacUpdate_of_phase {s : State} (hr : Running s) (hp : s.ctl.phase = .hmacActive) (data : List Byte) :
    exec (.hmacUpdate data) s = .next (answered .ok [] { s with engine := engineAbsorb s.engine data }) := by
  rw [exec, execHmacUpdate, unlessHalted_running hr, inPhase_own hp nofun, respond_eq]

/-- An open HMAC whose `COUNT` is one byte below its wrap. -/
def aboutToWrap : State :=
  setPhase .hmacActive
    { State.reset with engine := { engineInit with bufLen := 63, countHi := 0xFFFFFFFF#32, countLo := 0xFFFFFFF8#32 } }

theorem aboutToWrap_inv : Inv aboutToWrap :=
  (inv_resetWith Config.default).withEngine .hmacActive _ State.reset.hmac (fun _ => ⟨by decide, by decide⟩)
    fun _ i _ => Vector.getElem_replicate i.isLt

/-- Settles O55: without a wrap `COUNT` grows by eight per byte; one byte wraps the `COUNT` of `aboutToWrap` to 0. -/
theorem countBoundHoldsUntilWrap : Obligations.CountBoundHoldsUntilWrap := by
  refine ⟨fun s t data hr hp hcount hfits h => ?_, aboutToWrap, _, [0x00#8], aboutToWrap_inv, rfl, rfl, by decide,
    exec_hmacUpdate_of_phase rfl rfl _, rfl, ?_⟩
  · rw [exec_hmacUpdate_of_phase hr hp] at h
    cases h
    rw [answered_engine, engineAbsorb_count, BitVec.toNat_add, BitVec.toNat_ofNat]
    omega
  · rw [answered_engine, engineAbsorb_count]; rfl

/-! ### Engines that differ in stale bytes only (R16, R30) -/

theorem SameLiveBytes.refl (e : Engine) : SameLiveBytes e e := ⟨rfl, rfl, rfl, rfl, fun _ _ => rfl⟩

/-- The byte that is stored next makes one more byte agree. -/
theorem SameLiveBytes.getElem_set {a c : Engine} (h : SameLiveBytes a c) (b : Byte) {i : Nat} (hi : i < 64)
    (hle : i ≤ a.bufLen.val) : (a.buf.set a.bufLen b)[i] = (c.buf.set c.bufLen b)[i] := by
  rw [Vector.getElem_set, Vector.getElem_set, ← h.bufLen]
  split
  · rfl
  · exact h.buf ⟨i, hi⟩ (by simp only; omega)

theorem SameLiveBytes.count_eq {a c : Engine} (h : SameLiveBytes a c) : engineCount a = engineCount c :=
  engineCount_congr h.countHi h.countLo

/-- A block is compressed only when all of its bytes have been stored, so no stale byte reaches `H`. -/
theorem SameLiveBytes.absorbByte {a c : Engine} (h : SameLiveBytes a c) (b : Byte) :
    SameLiveBytes (absorbByte a b) (absorbByte c b) := by
  have hlen := congrArg Fin.val h.bufLen
  by_cases hshort : a.bufLen.val + 1 < 64
  · rw [absorbByte_short b hshort, absorbByte_short b (hlen ▸ hshort)]
    refine ⟨h.h, Fin.ext (by simp only [hlen]), ?_, ?_, fun i hi => h.getElem_set b i.isLt (Nat.le_of_lt_succ hi)⟩
    · simp only [setCount, h.count_eq]
    · simp only [setCount, h.count_eq]
  · have hfull : a.bufLen.val = 63 := by omega
    have hbuf : a.buf.set a.bufLen b = c.buf.set c.bufLen b := Vector.ext fun i hi => h.getElem_set b hi (by omega)
    rw [absorbByte_full b hfull, absorbByte_full b (hlen ▸ hfull)]
    refine ⟨?_, rfl, ?_, ?_, fun i hi => absurd hi (Nat.not_lt_zero _)⟩
    · simp only [h.h, hbuf]
    · simp only [setCount, h.count_eq]
    · simp only [setCount, h.count_eq]

theorem SameLiveBytes.engineAbsorb {a c : Engine} (h : SameLiveBytes a c) (data : List Byte) :
    SameLiveBytes (engineAbsorb a data) (engineAbsorb c data) := by
  induction data generalizing a c with
  | nil => exact h
  | cons b bs ih => exact ih (h.absorbByte b)

/-- Padding overwrites every stale byte (R75). -/
theorem SameLiveBytes.padBuffer_eq {a c : Engine} (h : SameLiveBytes a c) :
    padBuffer a.buf c.bufLen.val = padBuffer c.buf c.bufLen.val := by
  apply Vector.ext
  intro i hi
  rw [getElem_padBuffer, getElem_padBuffer, ← h.bufLen]
  split
  · exact h.buf ⟨i, hi⟩ ‹_›
  · rfl

theorem SameLiveBytes.padEngine_eq {a c : Engine} (h : SameLiveBytes a c) : padEngine a = padEngine c := by
  simp only [padEngine, h.bufLen, h.padBuffer_eq, h.count_eq, h.h, h.countHi, h.countLo]

theorem SameLiveBytes.finishDigest_eq {a c : Engine} (h : SameLiveBytes a c) : finishDigest a = finishDigest c := by
  simp only [finishDigest, engineFinish, h.padEngine_eq]

/-- `HmacFinish` reads the engine through its digest alone (R87). -/
theorem SameLiveBytes.finishMac_eq {a c : Engine} (h : SameLiveBytes a c) (ctx : HmacContext) :
    finishMac ctx a = finishMac ctx c := by
  unfold finishMac outerEngine; rw [h.finishDigest_eq]

/-! ### What each update of the state does to two states that look alike (R30) -/

/-- The two results are next states that look alike, the responses given so far included. -/
def AnswerAlike (r q : Result) : Prop := ∃ s t : State, r = .next s ∧ q = .next t ∧ SameVisible s t

theorem SameVisible.answered {s t : State} (h : SameVisible s t) (st : Status) (p : List Byte) :
    SameVisible (answered st p s) (answered st p t) :=
  { h with host := by simp only [Machine.answered, h.host] }

theorem SameVisible.respond {s t : State} (h : SameVisible s t) (st : Status) (p : List Byte) :
    AnswerAlike (respond st p s) (respond st p t) := ⟨_, _, rfl, rfl, h.answered st p⟩

theorem SameVisible.recordFault {s t : State} (h : SameVisible s t) (op : Opcode) (c : FaultCause) :
    SameVisible (recordFault op c s) (recordFault op c t) :=
  { h with ctl := by simp only [Machine.recordFault, h.ctl] }

theorem SameVisible.withEngine {s t : State} (h : SameVisible s t) (p : Phase) {e e' : Engine} {k k' : HmacContext}
    (he : p ≠ .done → SameLiveBytes e e') (hk : p = .hmacActive → k = k') :
    SameVisible (setPhase p { s with engine := e, hmac := k }) (setPhase p { t with engine := e', hmac := k' }) :=
  { h with ctl := by simp only [setPhase, h.ctl], engine := he, hmac := hk }

theorem SameVisible.absorb {s t : State} (h : SameVisible s t) (hp : s.ctl.phase ≠ .done) (data : List Byte) :
    SameVisible { s with engine := engineAbsorb s.engine data } { t with engine := engineAbsorb t.engine data } :=
  { h with engine := fun _ => SameLiveBytes.engineAbsorb (h.engine hp) data }

theorem SameVisible.withGen {s t : State} (h : SameVisible s t) {g g' : Generator} (hg : g = g') :
    SameVisible { s with gen := g } { t with gen := g' } := { h with gen := hg }

theorem SameVisible.setCounter {s t : State} (h : SameVisible s t) (v : Word64) :
    SameVisible (setCounter v s) (setCounter v t) :=
  h.withGen (by rw [h.gen])

theorem SameVisible.resetCore {s t : State} (h : SameVisible s t) : SameVisible (resetCore s) (resetCore t) where
  gen := rfl
  ctl := rfl
  config := h.config
  host := h.host
  engine _ := .refl _
  hmac _ := rfl

theorem SameVisible.statusByte_eq {s t : State} (h : SameVisible s t) : statusByte s = statusByte t := by
  simp only [statusByte, h.ctl, h.gen]

/-- `GenCode` reads the generator and the byte order alone (R111). -/
theorem SameVisible.genCodeBytes_eq {s t : State} (h : SameVisible s t) : genCodeBytes s = genCodeBytes t := by
  simp only [genCodeBytes, codeEngine, h.gen, h.config]

theorem SameVisible.answerCode {s t : State} (h : SameVisible s t) : AnswerAlike (answerCode s) (answerCode t) := by
  rw [Machine.answerCode, Machine.answerCode, h.genCodeBytes_eq]
  exact (h.withEngine .done (fun hd => absurd rfl hd) nofun).respond ..

theorem SameVisible.unlessHalted {s t : State} (h : SameVisible s t) {run : State → Result}
    (hrun : AnswerAlike (run s) (run t)) : AnswerAlike (unlessHalted s run) (unlessHalted t run) := by
  cases hf : s.ctl.fault with
  | true =>
    rw [unlessHalted_halted hf, unlessHalted_halted (h.ctl ▸ hf)]
    exact h.respond ..
  | false =>
    rwa [unlessHalted_running hf, unlessHalted_running (h.ctl ▸ hf)]

theorem SameVisible.inPhase {s t : State} (h : SameVisible s t) {own : Phase} {op : Opcode} {run : State → Result}
    (hrun : s.ctl.phase = own → AnswerAlike (run s) (run t)) :
    AnswerAlike (inPhase own op s run) (inPhase own op t run) := by
  cases hc : phaseCheck own s.ctl.phase with
  | some c =>
    rw [inPhase_of_phaseCheck_some hc, inPhase_of_phaseCheck_some (h.ctl ▸ hc)]
    exact (h.recordFault op c).respond ..
  | none =>
    rw [inPhase_of_phaseCheck_none hc, inPhase_of_phaseCheck_none (h.ctl ▸ hc)]
    exact hrun (phase_of_phaseCheck_none hc)

/-! ### No command observes them -/

theorem SameVisible.execSha1Final {s t : State} (h : SameVisible s t) :
    AnswerAlike (execSha1Final s) (execSha1Final t) := by
  refine h.unlessHalted (h.inPhase fun hp => ?_)
  have he := h.engine (by simp [hp])
  rw [he.finishDigest_eq]
  exact (h.withEngine .done (fun hd => absurd rfl hd) nofun).respond ..

theorem SameVisible.execHmacFinal {s t : State} (h : SameVisible s t) :
    AnswerAlike (execHmacFinal s) (execHmacFinal t) := by
  refine h.unlessHalted (h.inPhase fun hp => ?_)
  have he := h.engine (by simp [hp])
  rw [h.hmac hp, he.finishMac_eq]
  exact (h.withEngine .done (fun hd => absurd rfl hd) nofun).respond ..

theorem SameVisible.execGenConstruct {s t : State} (h : SameVisible s t) (secret : Option (List Byte))
    (ctr : Option (Vector Byte 8)) : AnswerAlike (execGenConstruct secret ctr s) (execGenConstruct secret ctr t) := by
  have hctr : ctr.map (deser s.config.ctrOrder) = ctr.map (deser t.config.ctrOrder) := by rw [h.config]
  refine h.unlessHalted ?_
  simp only [hctr]
  split
  · exact h.respond ..
  · split
    · exact h.respond ..
    · exact (h.withGen rfl).respond ..

theorem SameVisible.execGenSetSecret {s t : State} (h : SameVisible s t) (secret : List Byte) :
    AnswerAlike (execGenSetSecret secret s) (execGenSetSecret secret t) := by
  refine h.unlessHalted ?_
  split
  · exact h.respond ..
  · exact (h.withGen (by rw [h.gen])).respond ..

/-- Settles O56: what may differ is overwritten, or read only where the two states agree. -/
theorem hiddenRemainsUnobservable : Obligations.HiddenRemainsUnobservable := by
  intro s t h i
  show AnswerAlike (exec i s) (exec i t)
  cases i with
  | coreReset => exact h.resetCore.respond ..
  | coreStatus =>
    rw [exec, exec, execCoreStatus, execCoreStatus, h.statusByte_eq, h.ctl]
    exact h.respond ..
  | sha1Init =>
    rw [exec, exec, execSha1Init, execSha1Init]
    exact h.unlessHalted ((h.withEngine .shaActive (fun _ => .refl engineInit) nofun).respond ..)
  | hmacInit key =>
    rw [exec, exec, execHmacInit, execHmacInit]
    exact h.unlessHalted ((h.withEngine .hmacActive (fun _ => .refl (startEngine key)) fun _ => rfl).respond ..)
  | sha1Update data =>
    rw [exec, exec, execSha1Update, execSha1Update]
    exact h.unlessHalted (h.inPhase fun hp => (h.absorb (by simp [hp]) data).respond ..)
  | hmacUpdate data =>
    rw [exec, exec, execHmacUpdate, execHmacUpdate]
    exact h.unlessHalted (h.inPhase fun hp => (h.absorb (by simp [hp]) data).respond ..)
  | sha1Final => exact h.execSha1Final
  | hmacFinal => exact h.execHmacFinal
  | otpFormat hmac => exact h.unlessHalted (h.respond ..)
  | genConstruct secret ctr => exact h.execGenConstruct secret ctr
  | genSetSecret secret => exact h.execGenSetSecret secret
  | genSetCounter bytes =>
    rw [exec, exec, execGenSetCounter, execGenSetCounter]
    exact h.unlessHalted (by rw [h.config]; exact (h.setCounter _).respond ..)
  | genGetCounter =>
    rw [exec, exec, execGenGetCounter, execGenGetCounter]
    exact h.unlessHalted (by rw [h.config, h.gen]; exact h.respond ..)
  | genCurrent => exact h.unlessHalted h.answerCode
  | genNext =>
    rw [exec, exec, execGenNext, execGenNext]
    exact h.unlessHalted (by rw [h.gen]; exact (h.setCounter _).answerCode)

end Sys2Proof.Machine
end

section
/-! PROOFS of the memory statements (20_memory): the digest as 20 bytes (R37) and the command that answers it (R76); with
them, for every command, what a frame with a wrong `LEN`, the halted state and a foreign phase do to it (R50, R129, R130). -/

namespace Sys2Proof.Machine

/-! ### Frames that are answered `IllegalCommand` (R49, R50, R54) -/

theorem step_of_decode_error {s : State} {frame : List Byte} {rest : List HostInput} {e : DecodeError}
    (h : s.host.inbox = .command frame :: rest) (hd : decode frame = .error e) :
    step s = rejectFrame frame e (takeInput rest s) := by
  simp only [step, h, hd]

theorem rejectFrame_illegal {frame : List Byte} {e : DecodeError} {s : State} (he : e ≠ .notAFrame)
    (h : s.ctl.fault = false ∨ acceptedWhenHalted (frame.headD 0#8) = true) :
    rejectFrame frame e s = .next (answered .illegalCommand [] s) := by
  have hnot : ¬ (s.ctl.fault && !acceptedWhenHalted (frame.headD 0#8)) = true := by
    obtain h | h := h <;> rw [h] <;> simp
  cases e with
  | notAFrame => exact absurd rfl he
  | reservedOpcode | badLength | malformedConstruct => exact if_neg hnot

theorem answersIllegal_of_decode_error {frame : List Byte} {e : DecodeError} (hd : decode frame = .error e)
    (he : e ≠ .notAFrame) : AnswersIllegal frame := by
  intro s rest hin hs
  rw [step_of_decode_error hin hd]
  refine rejectFrame_illegal he (hs.imp_right fun hop => ?_)
  obtain hop | hop := hop <;> rw [hop] <;> rfl

/-- The opcode, the operand and the `LEN` of a command whose payload `decodePayload` requires to be empty. -/
theorem takesNoOperand_of_decodeBare {i : Instr} (henc : payloadOf i = [])
    (hdec : ∀ payload, decodePayload (opcodeOf i) payload = decodeBare i payload) :
    TakesNoOperand (opcodeByte (opcodeOf i)) i := by
  have hframe (payload : List Byte) (hlen : payload.length ≤ 65535) :
      decode (frameBytes (opcodeByte (opcodeOf i)) payload) = decodeBare i payload :=
    (decode_frame (opcodeOf i) payload hlen).trans (hdec payload)
  refine ⟨?_, hframe [] (Nat.zero_le _), fun payload hne hlen => ?_⟩
  · rw [encode, henc]; rfl
  · have hbad : decodeBare i payload = .error .badLength := by simp [decodeBare, hne]
    exact answersIllegal_of_decode_error ((hframe payload hlen).trans hbad) nofun

/-! ### The halted state and the phase check of a command (R129, R130) -/

theorem refusedWhenHalted_of_unlessHalted {i : Instr} {run : State → Result}
    (hexec : ∀ s, exec i s = unlessHalted s run) : RefusedWhenHalted i := by
  intro s hf
  rw [hexec, unlessHalted_halted hf]

theorem faultsOutsidePhase_of_inPhase {own other : Phase} {op : Opcode} {i : Instr} {run : State → Result}
    (hexec : ∀ s, Running s → exec i s = inPhase own op s run) (hown : other ≠ own) (hdone : other ≠ .done) :
    FaultsOutsidePhase other (opcodeByte op) i := by
  refine fun s hr => ⟨fun hp => ?_, fun hp => ?_⟩
  · rw [hexec s hr, inPhase_done hp, ← hp]; rfl
  · rw [hexec s hr, inPhase_other (hp ▸ hown) (hp ▸ hdone), ← hp]; rfl

/-! ### The bytes of a digest (R9, R37) -/

theorem getElem_bytesBe32_toNat (w : Word) (i : Nat) (h : i < 4) :
    (bytesBe32 w)[i].toNat = w.toNat / 2 ^ (8 * (3 - i)) % 256 := by
  have hbyte : (bytesBe32 w)[i] = w.extractLsb' (8 * (3 - i)) 8 := by interval_cases i <;> rfl
  rw [hbyte, BitVec.extractLsb'_toNat, Nat.shiftRight_eq_div_pow]

/-- A word is its four bytes in base 256, the first the most significant. -/
theorem toNat_eq_bytesBe32 (w : Word) :
    w.toNat = (bytesBe32 w)[0].toNat * 2 ^ 24 + (bytesBe32 w)[1].toNat * 2 ^ 16 + (bytesBe32 w)[2].toNat * 2 ^ 8 +
      (bytesBe32 w)[3].toNat := by
  simp only [getElem_bytesBe32_toNat]
  omega

/-- Word `j` of a digest fills its places `4 * j` to `4 * j + 3`. The length is written `4 + 4 + 4 + 4 + 4` so that the
places split along the five words. -/
theorem getElem_digestBytes (h : Vector Word 5) (j : Fin 5) (k : Nat) (hk : k < 4) :
    (digestBytes h)[4 * j.val + k] = (bytesBe32 h[j])[k] := by
  change (bytesBe32 h[0] ++ bytesBe32 h[1] ++ bytesBe32 h[2] ++ bytesBe32 h[3] ++ bytesBe32 h[4] :
    Vector Byte (4 + 4 + 4 + 4 + 4))[4 * j.val + k] = _
  simp only [Vector.getElem_append]
  fin_cases j <;> simp (disch := omega) [dif_pos]

theorem toNat_eq_digestBytes (h : Vector Word 5) (j : Fin 5) :
    h[j].toNat = (digestBytes h)[4 * j.val].toNat * 2 ^ 24 + (digestBytes h)[4 * j.val + 1].toNat * 2 ^ 16 +
      (digestBytes h)[4 * j.val + 2].toNat * 2 ^ 8 + (digestBytes h)[4 * j.val + 3].toNat := by
  have hfirst : (digestBytes h)[4 * j.val] = (bytesBe32 h[j])[0] := getElem_digestBytes h j 0 (by decide)
  rw [toNat_eq_bytesBe32 h[j], hfirst, getElem_digestBytes h j 1 (by decide), getElem_digestBytes h j 2 (by decide),
    getElem_digestBytes h j 3 (by decide)]

/-! ### `SHA1_FINAL` (R76) -/

theorem exec_sha1Final_running {s : State} (hr : Running s) :
    exec .sha1Final s = inPhase .shaActive .sha1Final s fun s =>
      respond .ok (finishDigest s.engine).toList (setPhase .done { s with engine := engineFinish s.engine }) := by
  rw [exec, execSha1Final, unlessHalted_running hr]

theorem exec_sha1Final_of_phase {s : State} (hr : Running s) (hp : s.ctl.phase = .shaActive) :
    exec .sha1Final s = .next (answered .ok (finishDigest s.engine).toList
      (setPhase .done { s with engine := engineFinish s.engine })) := by
  rw [exec_sha1Final_running hr, inPhase_own hp nofun, respond_eq]

/-- Settles O28: the answer is `finishDigest`, the bytes of the finished engine's words. -/
theorem sha1FinalAnswersDigest : Obligations.Sha1FinalAnswersDigest :=
  ⟨takesNoOperand_of_decodeBare rfl fun _ => rfl, refusedWhenHalted_of_unlessHalted fun _ => rfl,
    faultsOutsidePhase_of_inPhase (fun _ => exec_sha1Final_running) nofun nofun,
    fun s hr hp => ⟨finishDigest s.engine, exec_sha1Final_of_phase hr hp, toNat_eq_digestBytes _⟩⟩

end Sys2Proof.Machine
end

section
/-! PROOFS of the encoding statements (30_encoding): the `GEN_CONSTRUCT` payload (R55), the payload of every command
(R50), the frame around it (R48, R49, R53, R54), and the one response of a command (R51). -/

namespace Sys2Proof.Machine

/-! ### Operands of a fixed length, and none (R50) -/

theorem exists_vector_of_length {n : Nat} {bytes : List Byte} (h : bytes.length = n) :
    ∃ v : Vector Byte n, v.toList = bytes :=
  ⟨⟨bytes.toArray, by simp [h]⟩, rfl⟩

theorem decodeBare_eq_ok_iff {i j : Instr} {payload : List Byte} :
    decodeBare j payload = .ok i ↔ payload = [] ∧ j = i := by
  cases payload <;> simp [decodeBare]

theorem decodeFixed_eq_ok_iff {n : Nat} {f : Vector Byte n → Instr} {payload : List Byte} {i : Instr} :
    decodeFixed f payload = .ok i ↔ ∃ v : Vector Byte n, v.toList = payload ∧ f v = i := by
  constructor
  · intro h
    unfold decodeFixed at h
    split at h
    · exact ⟨_, toList_of_exactly ‹_›, Except.ok.inj h⟩
    · cases h
  · rintro ⟨v, rfl, rfl⟩
    rw [decodeFixed, exactly_toList]

theorem exists_decodeFixed_eq_ok_iff {n : Nat} {f : Vector Byte n → Instr} {payload : List Byte} :
    (∃ i, decodeFixed f payload = .ok i) ↔ payload.length = n := by
  simp only [decodeFixed_eq_ok_iff]
  constructor
  · rintro ⟨_, v, rfl, _⟩
    exact v.length_toList
  · intro h
    obtain ⟨v, hv⟩ := exists_vector_of_length h
    exact ⟨_, v, hv, rfl⟩

theorem decodeBare_ne_notAFrame (i : Instr) (payload : List Byte) : decodeBare i payload ≠ .error .notAFrame := by
  unfold decodeBare; split <;> nofun

theorem decodeFixed_ne_notAFrame {n : Nat} (f : Vector Byte n → Instr) (payload : List Byte) :
    decodeFixed f payload ≠ .error .notAFrame := by
  unfold decodeFixed; split <;> nofun

/-! ### The `GEN_CONSTRUCT` payload (R55) -/

theorem hasSecret_iff (flags : Byte) : hasSecret flags = true ↔ flags.toNat % 2 = 1 := by
  simp [hasSecret, BitVec.getLsbD, Nat.testBit_eq_decide_div_mod_eq]

theorem hasCounter_iff (flags : Byte) : hasCounter flags = true ↔ flags.toNat / 2 % 2 = 1 := by
  simp [hasCounter, BitVec.getLsbD, Nat.testBit_eq_decide_div_mod_eq]

/-- `FLAGS[7:2] ≠ 0`, as the decoder and as the statements write it. -/
theorem reservedFlags_iff (flags : Byte) : flags.extractLsb' 2 6 ≠ 0#6 ↔ 4 ≤ flags.toNat := by
  rw [ne_eq, ← BitVec.toNat_inj, BitVec.extractLsb'_toNat, Nat.shiftRight_eq_div_pow, BitVec.toNat_ofNat]
  omega

/-- The four ways of R55 in which a payload is malformed: no `FLAGS`, and these three. -/
theorem malformedPayload_cons_iff (flags : Byte) (rest : List Byte) : malformedPayload (flags :: rest) = true ↔
    4 ≤ flags.toNat ∨ (flags.toNat / 2 % 2 = 1 ∧ rest.length < 8) ∨
      (flags.toNat % 2 = 0 ∧ 8 * (flags.toNat / 2 % 2) < rest.length) := by
  simp [malformedPayload, or_assoc, ← Nat.lt_sub_iff_add_lt]

theorem decodeSecretPart_surplus {flags : Byte} (ctr : Option (Vector Byte 8)) {rest : List Byte}
    (hs : flags.toNat % 2 = 0) (hr : 0 < rest.length) :
    decodeSecretPart flags ctr rest = .error .malformedConstruct := by
  have hno : ¬ hasSecret flags = true := by rw [hasSecret_iff]; omega
  have hne : ¬ rest.isEmpty = true := by simpa [List.length_pos_iff] using hr
  rw [decodeSecretPart, if_neg hno, if_neg hne]

/-- Each way of being malformed fails the check of the decoder that is there for it. -/
theorem decodeConstruct_of_malformed {payload : List Byte} (h : malformedPayload payload = true) :
    decodeConstruct payload = .error .malformedConstruct := by
  cases payload with
  | nil => rfl
  | cons flags rest =>
    rw [malformedPayload_cons_iff] at h
    rw [decodeConstruct]
    split
    · rfl
    · rename_i hres
      rw [reservedFlags_iff] at hres
      split
      · rename_i hctr
        rw [hasCounter_iff] at hctr
        split
        · rename_i ctr htake
          have h8 : (rest.take 8).length = 8 := by rw [← toList_of_exactly htake, Vector.length_toList]
          rw [List.length_take] at h8
          exact decodeSecretPart_surplus _ (by omega) (by rw [List.length_drop]; omega)
        · rfl
      · rename_i hctr
        rw [hasCounter_iff] at hctr
        exact decodeSecretPart_surplus _ (by omega) (by omega)

theorem decodeConstruct_payloadOf (secret : Option (List Byte)) (ctr : Option (Vector Byte 8)) :
    decodeConstruct (payloadOf (.genConstruct secret ctr)) = .ok (.genConstruct secret ctr) := by
  cases secret <;> cases ctr <;>
    simp [payloadOf, constructFlags, decodeConstruct, decodeSecretPart, hasSecret, hasCounter, exactly_toList,
      List.take_of_length_le]

/-- What is not malformed is one of the four forms `FLAGS ‖ [CTR] ‖ [SEC]`. -/
theorem exists_payloadOf_of_not_malformed {payload : List Byte} (h : malformedPayload payload = false) :
    ∃ secret ctr, payload = payloadOf (.genConstruct secret ctr) := by
  cases payload with
  | nil => cases h
  | cons flags rest =>
    rw [← Bool.not_eq_true, malformedPayload_cons_iff] at h
    obtain hf | hf | hf | hf : flags.toNat = 0 ∨ flags.toNat = 1 ∨ flags.toNat = 2 ∨ flags.toNat = 3 := by omega
    · have hnil : rest = [] := List.eq_nil_of_length_eq_zero (by omega)
      exact ⟨none, none, by simp [payloadOf, constructFlags, hnil, ← BitVec.toNat_inj, hf]⟩
    · exact ⟨some rest, none, by simp [payloadOf, constructFlags, ← BitVec.toNat_inj, hf]⟩
    · obtain ⟨ctr, rfl⟩ := exists_vector_of_length (n := 8) (bytes := rest) (by omega)
      exact ⟨none, some ctr, by simp [payloadOf, constructFlags, ← BitVec.toNat_inj, hf]⟩
    · have h8 : (rest.take 8).length = 8 := by rw [List.length_take]; omega
      obtain ⟨ctr, hctr⟩ := exists_vector_of_length h8
      exact ⟨some (rest.drop 8), some ctr, by simp [payloadOf, constructFlags, hctr, ← BitVec.toNat_inj, hf]⟩

theorem decodeConstruct_eq_ok_iff {payload : List Byte} {i : Instr} :
    decodeConstruct payload = .ok i ↔ opcodeOf i = .genConstruct ∧ payloadOf i = payload := by
  constructor
  · intro h
    cases hm : malformedPayload payload with
    | true => cases h.symm.trans (decodeConstruct_of_malformed hm)
    | false =>
      obtain ⟨secret, ctr, rfl⟩ := exists_payloadOf_of_not_malformed hm
      cases h.symm.trans (decodeConstruct_payloadOf secret ctr)
      exact ⟨rfl, rfl⟩
  · rintro ⟨hop, rfl⟩
    cases i with
    | genConstruct secret ctr => exact decodeConstruct_payloadOf secret ctr
    | _ => cases hop

theorem exists_decodeConstruct_eq_ok_iff {payload : List Byte} :
    (∃ i, decodeConstruct payload = .ok i) ↔ malformedPayload payload = false := by
  cases hm : malformedPayload payload with
  | true => simp [decodeConstruct_of_malformed hm]
  | false =>
    obtain ⟨secret, ctr, rfl⟩ := exists_payloadOf_of_not_malformed hm
    simp [decodeConstruct_payloadOf]

theorem decodeConstruct_ne_notAFrame (payload : List Byte) : decodeConstruct payload ≠ .error .notAFrame := by
  cases hm : malformedPayload payload with
  | true => rw [decodeConstruct_of_malformed hm]; nofun
  | false =>
    obtain ⟨secret, ctr, rfl⟩ := exists_payloadOf_of_not_malformed hm
    rw [decodeConstruct_payloadOf]; nofun

/-! ### The payload of every command (R50) -/

/-- On payloads the decoder and the encoder are inverse to each other, whatever the length. -/
theorem decodePayload_eq_ok_iff {op : Opcode} {payload : List Byte} {i : Instr} :
    decodePayload op payload = .ok i ↔ opcodeOf i = op ∧ payloadOf i = payload := by
  constructor
  · intro h
    cases op with
    | sha1Update | hmacInit | hmacUpdate | genSetSecret => cases h; exact ⟨rfl, rfl⟩
    | otpFormat | genSetCounter => obtain ⟨v, rfl, rfl⟩ := decodeFixed_eq_ok_iff.mp h; exact ⟨rfl, rfl⟩
    | genConstruct => exact decodeConstruct_eq_ok_iff.mp h
    | _ => obtain ⟨rfl, rfl⟩ := decodeBare_eq_ok_iff.mp h; exact ⟨rfl, rfl⟩
  · rintro ⟨rfl, rfl⟩
    cases i with
    | otpFormat v | genSetCounter v => exact decodeFixed_eq_ok_iff.mpr ⟨v, rfl, rfl⟩
    | genConstruct secret ctr => exact decodeConstruct_payloadOf secret ctr
    | _ => rfl

/-- A payload has a meaning under an opcode exactly when the spec's tables allow it (R50, R55). -/
theorem exists_decodePayload_eq_ok_iff {op : Opcode} {payload : List Byte} (hlen : payload.length ≤ 65535) :
    (∃ i, decodePayload op payload = .ok i) ↔ allowedLength op payload.length = true ∧
      (op = .genConstruct → malformedPayload payload = false) := by
  cases op with
  | sha1Update | hmacInit | hmacUpdate | genSetSecret => simp [decodePayload, allowedLength, hlen]
  | otpFormat | genSetCounter => simp [decodePayload, allowedLength, exists_decodeFixed_eq_ok_iff]
  | genConstruct =>
    refine exists_decodeConstruct_eq_ok_iff.trans ⟨fun hm => ⟨?_, fun _ => hm⟩, fun ⟨_, hm⟩ => hm rfl⟩
    cases payload with
    | nil => cases hm
    | cons flags rest => simpa [allowedLength] using hlen
  | _ => simp [decodePayload, allowedLength, decodeBare_eq_ok_iff]

theorem decodePayload_ne_notAFrame (op : Opcode) (payload : List Byte) :
    decodePayload op payload ≠ .error .notAFrame := by
  cases op with
  | sha1Update | hmacInit | hmacUpdate | genSetSecret => nofun
  | otpFormat | genSetCounter => exact decodeFixed_ne_notAFrame _ _
  | genConstruct => exact decodeConstruct_ne_notAFrame _
  | _ => exact decodeBare_ne_notAFrame _ _

theorem length_payloadOf_le {i : Instr} (h : i.wellFormed = true) : (payloadOf i).length ≤ 65535 := by
  cases i with
  | genConstruct secret ctr =>
    obtain ⟨-, -, hfits⟩ := Laws.EncodedFrame.genConstruct secret ctr
    exact hfits h
  | sha1Update | hmacInit | hmacUpdate | genSetSecret => exact of_decide_eq_true h
  | otpFormat v | genSetCounter v => simp [payloadOf]
  | _ => exact Nat.zero_le _

/-! ### The frame around it (R48, R49, R53, R54) -/

theorem isFrame_iff {bytes : List Byte} : isFrame bytes = true ↔
    ∃ op hi lo payload, bytes = op :: hi :: lo :: payload ∧ payload.length = lengthField hi lo := by
  constructor
  · intro h
    unfold isFrame at h
    split at h
    · exact ⟨_, _, _, _, rfl, by simpa using h⟩
    · cases h
  · rintro ⟨op, hi, lo, payload, rfl, hlen⟩
    simpa [isFrame] using hlen

theorem lengthBytes_lengthField (hi lo : Byte) : lengthBytes (lengthField hi lo) = [hi, lo] := by
  have hval : lengthField hi lo = hi.toNat * 256 + lo.toNat := toNat_append_byte hi lo
  have hhi : BitVec.ofNat 8 (lengthField hi lo / 256) = hi := by bv_omega
  have hlo : BitVec.ofNat 8 (lengthField hi lo) = lo := by bv_omega
  rw [lengthBytes, hhi, hlo]

theorem decode_opcodeByte {hi lo : Byte} {payload : List Byte} (o : Opcode)
    (hlen : payload.length = lengthField hi lo) :
    decode (opcodeByte o :: hi :: lo :: payload) = decodePayload o payload := by
  simp only [decode, hlen, opcodeOfByte_opcodeByte, if_true]

theorem decode_reserved {op hi lo : Byte} {payload : List Byte} (hop : opcodeOfByte op = none)
    (hlen : payload.length = lengthField hi lo) : decode (op :: hi :: lo :: payload) = .error .reservedOpcode := by
  simp only [decode, hlen, hop, if_true]

theorem opcodeOfByte_cases (op : Byte) : opcodeOfByte op = none ∨ ∃ o, opcodeByte o = op := by
  cases h : opcodeOfByte op with
  | none => exact .inl rfl
  | some o => exact .inr ⟨o, opcodeByte_of_opcodeOfByte h⟩

theorem decode_eq_ok_iff {op hi lo : Byte} {payload : List Byte} {i : Instr}
    (hlen : payload.length = lengthField hi lo) : decode (op :: hi :: lo :: payload) = .ok i ↔
      ∃ o : Opcode, opcodeByte o = op ∧ decodePayload o payload = .ok i := by
  constructor
  · intro h
    obtain hop | ⟨o, rfl⟩ := opcodeOfByte_cases op
    · cases h.symm.trans (decode_reserved hop hlen)
    · exact ⟨o, rfl, (decode_opcodeByte o hlen).symm.trans h⟩
  · rintro ⟨o, rfl, h⟩
    exact (decode_opcodeByte o hlen).trans h

theorem decode_of_not_isFrame {bytes : List Byte} (h : isFrame bytes = false) :
    decode bytes = .error .notAFrame := by
  unfold decode
  split
  · exact if_neg (by simpa [isFrame] using h)
  · rfl

theorem isFrame_of_decode {bytes : List Byte} {i : Instr} (h : decode bytes = .ok i) : isFrame bytes = true := by
  cases hno : isFrame bytes with
  | true => rfl
  | false => cases h.symm.trans (decode_of_not_isFrame hno)

theorem decode_ne_notAFrame {bytes : List Byte} (h : isFrame bytes = true) : decode bytes ≠ .error .notAFrame := by
  obtain ⟨op, hi, lo, payload, rfl, hlen⟩ := isFrame_iff.mp h
  obtain hop | ⟨o, rfl⟩ := opcodeOfByte_cases op
  · rw [decode_reserved hop hlen]; nofun
  · rw [decode_opcodeByte o hlen]; exact decodePayload_ne_notAFrame o payload

/-! ### The statements about frames -/

/-- Settles O6: a payload that fits is framed with its own length, and `decodePayload` inverts `payloadOf`. -/
theorem decodeOfEncode : Obligations.DecodeOfEncode := by
  intro i hi
  rw [encode, decode_frame _ _ (length_payloadOf_le hi)]
  exact decodePayload_eq_ok_iff.mpr ⟨rfl, rfl⟩

/-- Settles O7: the opcode, the length and the payload of a frame that decodes are those of its command. -/
theorem encodeOfDecode : Obligations.EncodeOfDecode := by
  intro bytes i h
  refine ⟨?_, wellFormed_of_decode h⟩
  obtain ⟨op, hi, lo, payload, rfl, hlen⟩ := isFrame_iff.mp (isFrame_of_decode h)
  obtain ⟨o, rfl, hpay⟩ := (decode_eq_ok_iff hlen).mp h
  obtain ⟨rfl, rfl⟩ := decodePayload_eq_ok_iff.mp hpay
  rw [encode, hlen, lengthBytes_lengthField]; rfl

/-- The reserved opcode values are all but the fifteen of the table (R54). -/
theorem reservedOpcodes_count :
    ((List.range 256).filter fun n => (opcodeOfByte (BitVec.ofNat 8 n)).isNone).length = 241 := by
  decide +kernel

/-- Settles O8: the frame decodes when its payload does under the opcode of its first byte, and the payload does exactly
when the tables of R50 and R55 allow it. -/
theorem decodesExactlyLegalFrames : Obligations.DecodesExactlyLegalFrames := by
  refine ⟨fun op hi lo payload hlen => ?_, reservedOpcodes_count⟩
  have hle : payload.length ≤ 65535 := hlen ▸ lengthField_le hi lo
  simp only [decode_eq_ok_iff hlen, ← exists_decodePayload_eq_ok_iff hle, ← exists_and_left]
  exact exists_comm

/-- Settles O9: a running core answers every decode error `IllegalCommand` but `notAFrame`, which no frame gives. -/
theorem undecodableFramesChangeNothing : Obligations.UndecodableFramesChangeNothing := by
  intro s frame rest hin hframe hr
  cases hd : decode frame with
  | ok i => exact .inl ⟨i, rfl, step_of_decode_ok hin hd⟩
  | error e =>
    have he : e ≠ .notAFrame := by rintro rfl; exact decode_ne_notAFrame hframe hd
    exact .inr ⟨⟨e, rfl⟩, answersIllegal_of_decode_error hd he s rest hin (.inl hr)⟩

/-- Settles O10: a payload that is not malformed is `payloadOf` of the command it decodes to, whose fields stand where the
statement has them. -/
theorem constructPayloadFields : Obligations.ConstructPayloadFields := by
  refine ⟨fun flags rest hlen hm => ?_, fun payload hlen hm => ?_⟩
  · obtain ⟨secret, ctr, hpay⟩ := exists_payloadOf_of_not_malformed hm
    refine ⟨secret, ctr, ?_, ?_⟩
    · refine (decode_frame .genConstruct (flags :: rest) hlen).trans ?_
      rw [hpay]
      exact decodeConstruct_payloadOf secret ctr
    · obtain ⟨rfl, rfl⟩ := List.cons.inj hpay
      cases secret <;> cases ctr <;> simp [constructFlags, List.take_of_length_le]
  · exact (decode_frame .genConstruct payload hlen).trans (decodeConstruct_of_malformed hm)

/-- Settles O11: by evaluation of the decoder on the six frames. -/
theorem writtenFramesDecode : Obligations.WrittenFramesDecode := by
  unfold Obligations.WrittenFramesDecode
  decide

/-- Settles O13: the decoder finds what `isFrame` finds, and `rejectFrame` refuses it by that name. -/
theorem nonFramesAreRefused : Obligations.NonFramesAreRefused :=
  fun _ _ _ hin hno => step_of_decode_error hin (decode_of_not_isFrame hno)

/-! ### The response of a command (R51, R128) -/

theorem canEnd_halted {i : Instr} (hr : i ≠ .coreReset) (hs : i ≠ .coreStatus) :
    canEnd (opcodeOf i) .halted = true := by
  cases i with
  | coreReset => exact absurd rfl hr
  | coreStatus => exact absurd rfl hs
  | _ => rfl

theorem canEnd_faulted {op : Opcode} {p : Phase} {c : FaultCause} (h : phaseTable op p = .faults c) :
    canEnd op (.faulted c) = true := by
  obtain rfl | rfl | rfl | rfl := updateOrFinal_of_faults h <;> rfl

/-- The operand checks end a command in ways that the table lists for it, none of which is a fault (R106, R108). -/
theorem operandCheck_isListed (o : CtrOrder) (i : Instr) :
    canEnd (opcodeOf i) (operandCheck o i) = true ∧ (statusCode (operandCheck o i)).getLsbD 7 = false := by
  cases i with
  | genConstruct secret ctr =>
    rw [operandCheck_genConstruct]
    split
    · exact ⟨rfl, rfl⟩
    · split <;> exact ⟨rfl, rfl⟩
  | genSetSecret secret =>
    rw [operandCheck_genSetSecret]
    split <;> exact ⟨rfl, rfl⟩
  | _ => simp [operandCheck, canEnd, statusCode]

/-- Whatever way a command ends, it adds one response to the outbox, as the tables of R51 and R128 say. -/
theorem Effect.response {s t : State} {i : Instr} (h : Effect s i t) : ∃ (st : Status) (p : List Byte),
    t.host.outbox = s.host.outbox ++ [responseFrame st p] ∧ canEnd (opcodeOf i) st = true ∧
    p.length = (if st = .ok then responseLength (opcodeOf i) else 0) ∧
    ((statusCode st).getLsbD 7 = true → t.ctl.fault = true) := by
  cases h with
  | halted hf hr hs => exact ⟨_, _, rfl, canEnd_halted hr hs, rfl, fun _ => hf⟩
  | faulted _ hc => exact ⟨_, _, rfl, canEnd_faulted hc, rfl, fun _ => rfl⟩
  | genConstructRefused _ _ _ hbad | genSetSecretRefused _ _ hbad =>
    obtain ⟨hend, hbit⟩ := operandCheck_isListed s.config.ctrOrder _
    exact ⟨_, _, rfl, hend, (if_neg hbad).symm, by rw [hbit]; nofun⟩
  | _ => exact ⟨_, _, rfl, rfl, by simp [opcodeOf, responseLength], nofun⟩

/-- Settles O14: by the ways in which a command can end, each of which answers once. -/
theorem everyCommandEndsAsListed : Obligations.EveryCommandEndsAsListed := by
  intro i s
  obtain ⟨t, ht, he⟩ := exec_ends i s
  obtain ⟨st, p, hresponse⟩ := he.response
  exact ⟨t, st, p, ht, hresponse⟩

end Sys2Proof.Machine
end

section
/-! PROOFS of the SHA-1 engine statements (40_sha1_engine): absorbing (R66), the block processor (R68 to R72), finishing
(R74, R75), the padded message and `SHA1` of what was absorbed (R78, R79), and the commands (R65, R67, R80, R81). -/

namespace Sys2Proof.Machine

/-! ### Chaining over blocks (R77) -/

theorem blockAt_append_left {bytes : List Byte} {i : Nat} (h : 64 * i + 64 ≤ bytes.length) (more : List Byte) :
    blockAt (bytes ++ more) i = blockAt bytes i := by
  apply Vector.ext
  intro j hj
  simp only [blockAt, Vector.getElem_ofFn]
  rw [List.getD_append]
  omega

theorem blockAt_append_block {blocks : List Byte} {n : Nat} (h : blocks.length = 64 * n) (block : Vector Byte 64) :
    blockAt (blocks ++ block.toList) n = block := by
  apply Vector.ext
  intro j hj
  simp only [blockAt, Vector.getElem_ofFn]
  rw [List.getD_append_right _ _ _ _ (by omega), List.getD_eq_getElem _ _ (by simp; omega)]
  simp [h]

theorem chain_append_left (h : Vector Word 5) {bytes : List Byte} {n : Nat} (hn : 64 * n ≤ bytes.length)
    (more : List Byte) : chain h (bytes ++ more) n = chain h bytes n := by
  induction n with
  | zero => rfl
  | succ n ih => rw [chain, chain, ih (by omega), blockAt_append_left (by omega)]

theorem chain_append_block (h : Vector Word 5) {blocks : List Byte} {n : Nat} (hn : blocks.length = 64 * n)
    (block : Vector Byte 64) : chain h (blocks ++ block.toList) (n + 1) = compress (chain h blocks n) block := by
  rw [chain, chain_append_left h hn.ge, blockAt_append_block hn]

/-! ### What an engine has absorbed (R66) -/

/-- `BUF[0..BUFLEN)`: the bytes that wait for the rest of their block (R16). -/
def Engine.pending (e : Engine) : List Byte := e.buf.toList.take e.bufLen.val

theorem Engine.length_pending (e : Engine) : e.pending.length = e.bufLen.val := by
  have := e.bufLen.isLt
  rw [pending, List.length_take, Vector.length_toList]
  omega

theorem take_succ_set {l : List Byte} {i : Nat} (h : i < l.length) (b : Byte) :
    (l.set i b).take (i + 1) = l.take i ++ [b] := by
  rw [List.set_eq_take_append_cons_drop, if_pos h, List.take_append]
  simp [h.le]

theorem pending_absorbByte_short {e : Engine} (h : e.bufLen.val + 1 < 64) (b : Byte) :
    (absorbByte e b).pending = e.pending ++ [b] := by
  have hlen : (absorbByte e b).bufLen.val = e.bufLen.val + 1 := by rw [absorbByte_bufLen, Nat.mod_eq_of_lt h]
  rw [Engine.pending, hlen, absorbByte_buf, Vector.toList_set]
  exact take_succ_set (by simp) b

theorem toList_buf_absorbByte_full {e : Engine} (h : e.bufLen.val = 63) (b : Byte) :
    (absorbByte e b).buf.toList = e.pending ++ [b] := by
  rw [absorbByte_buf, Vector.toList_set, Engine.pending, ← take_succ_set (by simp) b,
    List.take_of_length_le (by simp [h])]

theorem absorbByte_h_short {e : Engine} (h : e.bufLen.val + 1 < 64) (b : Byte) : (absorbByte e b).h = e.h := by
  rw [absorbByte_short b h]; rfl

theorem absorbByte_h_full {e : Engine} (h : e.bufLen.val = 63) (b : Byte) :
    (absorbByte e b).h = compress e.h (absorbByte e b).buf := by
  rw [absorbByte_buf, absorbByte_full b h]

/-- `e` has taken in `bytes` since its words were `h`: it has compressed the complete blocks, and the rest is pending. -/
def Engine.Absorbed (e : Engine) (h : Vector Word 5) (bytes : List Byte) : Prop :=
  ∃ (blocks : List Byte) (n : Nat), blocks.length = 64 * n ∧ bytes = blocks ++ e.pending ∧ e.h = chain h blocks n

/-- Any engine has taken in its pending bytes since its last compression. -/
theorem Engine.absorbed_pending (e : Engine) : e.Absorbed e.h e.pending := ⟨[], 0, rfl, rfl, rfl⟩

theorem absorbed_engineInit : engineInit.Absorbed Config.iv [] := engineInit.absorbed_pending

theorem Engine.Absorbed.absorbByte {e : Engine} {h : Vector Word 5} {bytes : List Byte} (ha : e.Absorbed h bytes)
    (b : Byte) : (absorbByte e b).Absorbed h (bytes ++ [b]) := by
  obtain ⟨blocks, n, hlen, rfl, hh⟩ := ha
  by_cases hshort : e.bufLen.val + 1 < 64
  · refine ⟨blocks, n, hlen, ?_, ?_⟩
    · rw [pending_absorbByte_short hshort, List.append_assoc]
    · rw [absorbByte_h_short hshort, hh]
  · have hfull : e.bufLen.val = 63 := by omega
    have hnone : (Machine.absorbByte e b).pending = [] := by
      rw [pending, absorbByte_bufLen, hfull, List.take_zero]
    refine ⟨blocks ++ (Machine.absorbByte e b).buf.toList, n + 1, ?_, ?_, ?_⟩
    · rw [List.length_append, Vector.length_toList, hlen, Nat.mul_succ]
    · rw [hnone, toList_buf_absorbByte_full hfull, List.append_nil, List.append_assoc]
    · rw [chain_append_block h hlen, ← hh, absorbByte_h_full hfull]

theorem Engine.Absorbed.engineAbsorb {e : Engine} {h : Vector Word 5} {bytes : List Byte} (ha : e.Absorbed h bytes)
    (data : List Byte) : (engineAbsorb e data).Absorbed h (bytes ++ data) := by
  induction data generalizing e bytes with
  | nil => rwa [List.append_nil]
  | cons b bs ih => rw [engineAbsorb_cons, List.append_cons]; exact ih (ha.absorbByte b)

theorem Engine.Absorbed.bufLen_eq {e : Engine} {h : Vector Word 5} {bytes : List Byte} (ha : e.Absorbed h bytes) :
    e.bufLen.val = bytes.length % 64 := by
  obtain ⟨blocks, n, hlen, rfl, -⟩ := ha
  rw [List.length_append, hlen, e.length_pending]
  omega

theorem Engine.Absorbed.blocks_eq {e : Engine} {h : Vector Word 5} {bytes : List Byte} (ha : e.Absorbed h bytes) :
    e.h = chain h bytes (bytes.length / 64) ∧ e.pending = bytes.drop (64 * (bytes.length / 64)) := by
  obtain ⟨blocks, n, hlen, rfl, hh⟩ := ha
  have hn : (blocks ++ e.pending).length / 64 = n := by
    rw [List.length_append, hlen, e.length_pending]; omega
  rw [hn, chain_append_left h hlen.ge, List.drop_left' hlen]
  exact ⟨hh, rfl⟩

theorem engineAbsorb_append (e : Engine) (xs ys : List Byte) :
    engineAbsorb e (xs ++ ys) = engineAbsorb (engineAbsorb e xs) ys := List.foldl_append

theorem engineAbsorb_bufLen (e : Engine) (data : List Byte) :
    (engineAbsorb e data).bufLen.val = (e.bufLen.val + data.length) % 64 := by
  rw [(e.absorbed_pending.engineAbsorb data).bufLen_eq, List.length_append, e.length_pending]

/-! ### Which byte `BUF` holds at each place (R16, R66) -/

/-- The byte that comes after `xs` takes the next place, modulo 64. -/
theorem getElem_engineAbsorb_concat (e : Engine) (xs : List Byte) (b : Byte) {i : Nat} (hi : i < 64) :
    (engineAbsorb e (xs ++ [b])).buf[i] =
      if (e.bufLen.val + xs.length) % 64 = i then b else (engineAbsorb e xs).buf[i] := by
  rw [engineAbsorb_append, engineAbsorb_cons, engineAbsorb_nil]
  simp only [absorbByte_buf, Vector.getElem_set, engineAbsorb_bufLen]

/-- The last 64 bytes of the data are in `BUF`. -/
theorem getElem_engineAbsorb_stored (e : Engine) (data : List Byte) {k : Nat} (hk : k < data.length)
    (hlast : data.length ≤ k + 64) : (engineAbsorb e data).buf[(e.bufLen.val + k) % 64] = data[k] := by
  induction data using List.reverseRecOn with
  | nil => exact absurd hk (Nat.not_lt_zero k)
  | append_singleton xs b ih =>
    rw [List.length_append, List.length_singleton] at hk hlast
    rw [getElem_engineAbsorb_concat]
    by_cases hx : k = xs.length
    · subst hx; simp
    · rw [if_neg (by omega), ih (by omega) (by omega), List.getElem_append_left]

theorem getElem_engineAbsorb_kept (e : Engine) (data : List Byte) {i : Nat} (hi : i < 64)
    (hno : ∀ k < data.length, (e.bufLen.val + k) % 64 ≠ i) : (engineAbsorb e data).buf[i] = e.buf[i] := by
  induction data using List.reverseRecOn with
  | nil => rfl
  | append_singleton xs b ih =>
    rw [List.length_append, List.length_singleton] at hno
    rw [getElem_engineAbsorb_concat, if_neg (hno _ (Nat.lt_succ_self _))]
    exact ih fun k hk => hno k (by omega)

/-- `COUNT` grows by eight per byte, modulo 2^64 (R66, R73). -/
theorem toNat_engineAbsorb_count (e : Engine) (data : List Byte) :
    (engineCount (engineAbsorb e data)).toNat = ((engineCount e).toNat + 8 * data.length) % 2 ^ 64 := by
  rw [engineAbsorb_count, BitVec.toNat_add, BitVec.toNat_ofNat, Nat.add_mod_mod]

/-! ### The statements about absorbing -/

/-- Settles O23: the engine takes in the data after its pending bytes; `BUF` follows from the place of each byte. -/
theorem absorbChainsCompleteBlocks : Obligations.AbsorbChainsCompleteBlocks := by
  intro e data
  have ha := e.absorbed_pending.engineAbsorb data
  obtain ⟨hh, hrest⟩ := ha.blocks_eq
  refine ⟨hh, ha.bufLen_eq, hrest, toNat_engineAbsorb_count e data, fun k hk hlast => ?_,
    fun i hno => getElem_engineAbsorb_kept e data i.isLt hno⟩
  rw [List.getD_eq_getElem _ _ (by simp; omega), Vector.getElem_toList, List.getD_eq_getElem _ _ hk]
  exact getElem_engineAbsorb_stored e data hk hlast

/-- Settles O24: the sum of the whole `COUNT`, taken apart into its halves. -/
theorem countHalvesCarry : Obligations.CountHalvesCarry := by
  intro e data
  have hcount := toNat_engineAbsorb_count e data
  rw [engineCount_toNat, engineCount_toNat] at hcount
  have hlo := (engineAbsorb e data).countLo.isLt
  have hhi := (engineAbsorb e data).countHi.isLt
  constructor <;> omega

/-! ### The block processor (R68 to R72) -/

theorem rotl32_eq_rotateLeft (x : Word) {n : Nat} (hn : n < 32) : rotl32 x n = x.rotateLeft n := by
  rw [BitVec.rotateLeft_def, Nat.mod_eq_of_lt hn, rotl32]

theorem length_extendSchedule (n : Nat) (w : List Word) : (extendSchedule n w).length = w.length + n := by
  induction n generalizing w with
  | zero => rfl
  | succ n ih => rw [extendSchedule, ih, List.length_append, List.length_singleton]; omega

/-- More words leave the earlier ones as they are. -/
theorem getD_extendSchedule_old {i : Nat} {w : List Word} (hi : i < w.length) (n : Nat) :
    (extendSchedule n w).getD i 0#32 = w.getD i 0#32 := by
  induction n generalizing w with
  | zero => rfl
  | succ n ih => rw [extendSchedule, ih (by simp; omega), List.getD_append _ _ _ _ hi]

/-- Each new word is computed from words before it, which stay. -/
theorem getD_extendSchedule_new {n i : Nat} {w : List Word} (hw : 16 ≤ w.length) (hi : w.length ≤ i)
    (hn : i < w.length + n) : (extendSchedule n w).getD i 0#32 =
      rotl32 ((extendSchedule n w).getD (i - 3) 0#32 ^^^ (extendSchedule n w).getD (i - 8) 0#32 ^^^
        (extendSchedule n w).getD (i - 14) 0#32 ^^^ (extendSchedule n w).getD (i - 16) 0#32) 1 := by
  induction n generalizing w with
  | zero => omega
  | succ n ih =>
    have hlen : (w ++ [nextWord w]).length = w.length + 1 := List.length_append
    obtain rfl | hlt := Nat.eq_or_lt_of_le hi
    · have hold (k : Nat) (hk : 0 < k) :
          (extendSchedule (n + 1) w).getD (w.length - k) 0#32 = w.getD (w.length - k) 0#32 :=
        getD_extendSchedule_old (by omega) _
      rw [hold 3 (by decide), hold 8 (by decide), hold 14 (by decide), hold 16 (by decide)]
      rw [extendSchedule, getD_extendSchedule_old (by omega), List.getD_append_right _ _ _ _ le_rfl, Nat.sub_self]
      rfl
    · exact ih (by omega) (by omega) (by omega)

theorem be32_toNat (b0 b1 b2 b3 : Byte) : (be32 b0 b1 b2 b3).toNat =
    b0.toNat * 2 ^ 24 + b1.toNat * 2 ^ 16 + b2.toNat * 2 ^ 8 + b3.toNat := by
  simp only [be32, toNat_append_byte]
  omega

theorem length_blockWords (block : Vector Byte 64) : (blockWords block).length = 16 := List.length_ofFn

theorem getD_blockWords (block : Vector Byte 64) (j : Fin 16) : (blockWords block).getD j.val 0#32 =
    be32 block[4 * j.val] block[4 * j.val + 1] block[4 * j.val + 2] block[4 * j.val + 3] := by
  rw [List.getD_eq_getElem _ _ (by rw [length_blockWords]; exact j.isLt)]
  exact List.getElem_ofFn ..

/-- Settles O25: the first sixteen words are the block's and stay; each later one is `nextWord` of those before it. -/
theorem scheduleFollowsRecurrence : Obligations.ScheduleFollowsRecurrence := by
  intro block
  have hlen := length_blockWords block
  refine ⟨?_, fun j => ?_, fun i hi hi' => ?_⟩
  · rw [schedule, length_extendSchedule, hlen]
  · have hj : j.val < (blockWords block).length := by omega
    rw [schedule, getD_extendSchedule_old hj, getD_blockWords]
    exact be32_toNat ..
  · rw [← rotl32_eq_rotateLeft _ (by decide)]
    exact getD_extendSchedule_new (by omega) (by omega) (by omega)

/-- The working variables before round `t` (R71, R72). -/
def varsBefore (h : Vector Word 5) (block : Vector Byte 64) (t : Nat) : Vars := rounds (schedule block) t (startVars h)

theorem varsBefore_succ (h : Vector Word 5) (block : Vector Byte 64) (t : Nat) :
    varsBefore h block (t + 1) = round t ((schedule block).getD t 0#32) (varsBefore h block t) := rfl

theorem compress_eq_varsBefore (h : Vector Word 5) (block : Vector Byte 64) :
    compress h block = let v := varsBefore h block 80
      #v[h[0] + v.a, h[1] + v.b, h[2] + v.c, h[3] + v.d, h[4] + v.e] := by
  unfold compress; rfl

theorem round_a (t : Nat) (w : Word) (v : Vars) : (round t w v).a =
    v.a.rotateLeft 5 + roundFunction t v.b v.c v.d + v.e + roundConstant t + w := by
  rw [round, rotl32_eq_rotateLeft _ (by decide)]

theorem round_c (t : Nat) (w : Word) (v : Vars) : (round t w v).c = v.b.rotateLeft 30 :=
  rotl32_eq_rotateLeft _ (by decide)

/-- The four groups of twenty rounds (R69, R70). -/
theorem group_cases {t : Nat} (ht : t < 80) : t / 20 = 0 ∨ t / 20 = 1 ∨ t / 20 = 2 ∨ t / 20 = 3 := by omega

theorem roundConstant_eq_getD {t : Nat} (ht : t < 80) : roundConstant t =
    [0x5A827999#32, 0x6ED9EBA1#32, 0x8F1BBCDC#32, 0xCA62C1D6#32].getD (t / 20) 0#32 := by
  unfold roundConstant
  obtain hg | hg | hg | hg := group_cases ht
  all_goals rw [hg]; simp (disch := omega) only [if_pos, if_neg]; rfl

theorem roundFunction_choose {t : Nat} (hg : t / 20 = 0) (b c d : Word) :
    roundFunction t b c d = (b &&& c) ||| (~~~b &&& d) := if_pos (by omega)

theorem roundFunction_majority {t : Nat} (hg : t / 20 = 2) (b c d : Word) :
    roundFunction t b c d = (b &&& c) ||| (b &&& d) ||| (c &&& d) := by
  simp (disch := omega) only [roundFunction, if_pos, if_neg]

theorem roundFunction_parity {t : Nat} (hg : t / 20 = 1 ∨ t / 20 = 3) (b c d : Word) :
    roundFunction t b c d = b ^^^ c ^^^ d := by
  obtain hg | hg := hg <;> simp (disch := omega) only [roundFunction, if_pos, if_neg]

/-- Settles O26: the sequences are the working variables before each round. -/
theorem compressRunsEightyRounds : Obligations.CompressRunsEightyRounds := by
  intro h block
  refine ⟨fun t => (varsBefore h block t).a, fun t => (varsBefore h block t).b, fun t => (varsBefore h block t).c,
    fun t => (varsBefore h block t).d, fun t => (varsBefore h block t).e, ⟨rfl, rfl, rfl, rfl, rfl⟩,
    fun t ht => ⟨?_, rfl, round_c .., rfl, rfl⟩, compress_eq_varsBefore h block⟩
  dsimp only
  rw [varsBefore_succ, round_a, roundConstant_eq_getD ht]
  obtain hg | hg | hg | hg := group_cases ht
  · simp only [hg, roundFunction_choose hg]
  · simp only [hg, roundFunction_parity (.inl hg)]
  · simp only [hg, roundFunction_majority hg]
  · simp only [hg, roundFunction_parity (.inr hg)]

/-! ### The padded block or blocks (R74, R75) -/

theorem toList_padBuffer (buf : Vector Byte 64) {n : Nat} (hn : n < 64) :
    (padBuffer buf n).toList = buf.toList.take n ++ [0x80#8] ++ List.replicate (63 - n) 0x00#8 := by
  apply List.ext_getElem
  · simp; omega
  · intro i hi _
    have hi : i < 64 := by simpa using hi
    rw [Vector.getElem_toList, getElem_padBuffer]
    obtain hlt | rfl | hgt := Nat.lt_trichotomy i n
    · simp only [if_pos hlt, List.append_assoc]; rw [List.getElem_append_left (by simp; omega)]; simp
    · simp [Nat.min_eq_left hn.le]
    · rw [if_neg (by omega), if_neg (by omega), List.getElem_append_right (by simp; omega), List.getElem_replicate]

theorem toList_putLength (buf : Vector Byte 64) (count : Word64) :
    (putLength buf count).toList = buf.toList.take 56 ++ (bytesBe64 count).toList := by
  apply List.ext_getElem
  · simp
  · intro i hi _
    have hi : i < 64 := by simpa using hi
    rw [Vector.getElem_toList]
    by_cases hlow : i < 56
    · rw [getElem_putLength_low _ _ _ hlow, List.getElem_append_left (by simpa using hlow)]; simp
    · rw [getElem_putLength_high _ _ _ (by omega) hi, List.getElem_append_right (by simpa using hlow)]; simp

/-- The pending bytes, `80` and zeros up to the end of the block: with the length put over its last eight bytes the one
padded block, or without it the first of two (R75). -/
def Engine.firstPadded (e : Engine) : Vector Byte 64 := padBuffer e.buf e.bufLen.val

theorem toList_firstPadded (e : Engine) :
    e.firstPadded.toList = e.pending ++ [0x80#8] ++ List.replicate (63 - e.bufLen.val) 0x00#8 :=
  toList_padBuffer e.buf e.bufLen.isLt

theorem padEngine_short {e : Engine} (h : e.bufLen.val ≤ 55) :
    padEngine e = { e with buf := putLength e.firstPadded (engineCount e) } := by
  rw [padEngine, if_neg (by omega)]; rfl

theorem padEngine_long {e : Engine} (h : 56 ≤ e.bufLen.val) :
    padEngine e = { e with
      h := compress e.h e.firstPadded, buf := putLength (Vector.replicate 64 0x00#8) (engineCount e) } := by
  rw [padEngine, if_pos h]; rfl

theorem engineFinish_buf (e : Engine) : (engineFinish e).buf = (padEngine e).buf := rfl

theorem engineFinish_h (e : Engine) : (engineFinish e).h = compress (padEngine e).h (engineFinish e).buf := rfl

theorem engineFinish_h_short {e : Engine} (h : e.bufLen.val ≤ 55) :
    (engineFinish e).h = compress e.h (engineFinish e).buf := by
  rw [engineFinish_h, padEngine_short h]

theorem engineFinish_h_long {e : Engine} (h : 56 ≤ e.bufLen.val) :
    (engineFinish e).h = compress (compress e.h e.firstPadded) (engineFinish e).buf := by
  rw [engineFinish_h, padEngine_long h]

theorem toList_engineFinish_buf_short {e : Engine} (h : e.bufLen.val ≤ 55) :
    (engineFinish e).buf.toList = e.pending ++ [0x80#8] ++ List.replicate (55 - e.bufLen.val) 0x00#8 ++
      (bytesBe64 (engineCount e)).toList := by
  have hroom : 56 - (e.pending ++ [0x80#8]).length = 55 - e.bufLen.val := by
    rw [List.length_append, e.length_pending, List.length_singleton]; omega
  rw [engineFinish_buf, padEngine_short h, toList_putLength, toList_firstPadded, List.take_append, hroom,
    List.take_replicate, List.take_of_length_le (by simp [e.length_pending]; omega)]
  congr 3
  omega

theorem toList_engineFinish_buf_long {e : Engine} (h : 56 ≤ e.bufLen.val) :
    (engineFinish e).buf.toList = List.replicate 56 0x00#8 ++ (bytesBe64 (engineCount e)).toList := by
  rw [engineFinish_buf, padEngine_long h, toList_putLength, Vector.toList_replicate, List.take_replicate]; rfl

theorem toList_vector_five (h : Vector Word 5) : h.toList = [h[0], h[1], h[2], h[3], h[4]] := by
  apply List.ext_getElem
  · simp
  · intro i hi _
    have : i < 5 := by simpa using hi
    interval_cases i <;> rfl

theorem toList_digestBytes (h : Vector Word 5) :
    (digestBytes h).toList = (h.toList.map fun w => (bytesBe32 w).toList).flatten := by
  rw [toList_vector_five]
  change (bytesBe32 h[0] ++ bytesBe32 h[1] ++ bytesBe32 h[2] ++ bytesBe32 h[3] ++ bytesBe32 h[4] :
    Vector Byte (4 + 4 + 4 + 4 + 4)).toList = _
  simp only [Vector.toList_append, List.map_cons, List.map_nil, List.flatten_cons, List.flatten_nil, List.append_nil,
    List.append_assoc]

/-- Settles O27: the blocks as `padEngine` makes them, by whether the length has room after the pending bytes. -/
theorem finishPadsOneOrTwoBlocks : Obligations.FinishPadsOneOrTwoBlocks := fun e =>
  ⟨fun h => ⟨toList_engineFinish_buf_short h, engineFinish_h_short h⟩,
    fun h => ⟨e.firstPadded, toList_firstPadded e, toList_engineFinish_buf_long h, engineFinish_h_long h⟩,
    engineFinish_bufLen e, engineCount_congr (engineFinish_countHi e) (engineFinish_countLo e), toList_digestBytes _⟩

/-! ### The padded message (R78) -/

/-- The number of zeros is the one below 64 that leaves eight bytes of the last block. -/
theorem padMessage_eq {m : List Byte} {z : Nat} (hz : (m.length + 1 + z) % 64 = 56) (hlt : z < 64) : padMessage m =
    m ++ [0x80#8] ++ List.replicate z 0x00#8 ++ (bytesBe64 (BitVec.ofNat 64 (8 * m.length))).toList := by
  have hzeros : (55 + 64 * m.length - m.length) % 64 = z := by omega
  rw [padMessage, hzeros]

theorem length_padMessage (m : List Byte) : (padMessage m).length = 64 * ((m.length + 8) / 64 + 1) := by
  simp only [padMessage, List.length_append, List.length_singleton, List.length_replicate, Vector.length_toList]
  omega

theorem getD_padMessage_zero {m : List Byte} {k : Nat} (hk : m.length < k) (hk' : k + 8 < (padMessage m).length)
    (d : Byte) : (padMessage m).getD k d = 0x00#8 := by
  simp only [padMessage, List.length_append, List.length_singleton, List.length_replicate, Vector.length_toList] at hk'
  rw [padMessage, List.getD_append _ _ _ _ (by simp; omega), List.getD_append_right _ _ _ _ (by simp; omega),
    List.getD_eq_getElem _ _ (by simp; omega), List.getElem_replicate]

/-- Settles O29: the four parts of the padded message, of which the zeros make the length a multiple of 64. -/
theorem paddedLengthIsLeast : Obligations.PaddedLengthIsLeast := by
  intro m
  have hlen := length_padMessage m
  refine ⟨hlen, by omega, by omega, ?_, fun k hk hk' => getD_padMessage_zero hk hk' _,
    bytesBe64 (BitVec.ofNat 64 (8 * m.length)), ?_, ?_⟩
  · rw [padMessage, List.append_assoc _ _ (Vector.toList _), List.take_left' (by simp)]
  · rw [padMessage, List.drop_left' (by simp; omega)]
  · rw [valBe64_bytesBe64, BitVec.toNat_ofNat]

/-! ### `SHA1` of what the engine has absorbed (R79, R80) -/

/-- Finishing makes of the pending bytes the one or two last blocks of the padded message. -/
theorem Engine.Absorbed.engineFinish_h {e : Engine} {h : Vector Word 5} {m : List Byte} (ha : e.Absorbed h m)
    (hcount : engineCount e = BitVec.ofNat 64 (8 * m.length)) :
    (engineFinish e).h = chain h (padMessage m) (blockCount m.length) := by
  obtain ⟨blocks, n, hlen, rfl, hh⟩ := ha
  have hmlen : (blocks ++ e.pending).length = 64 * n + e.bufLen.val := by
    rw [List.length_append, hlen, e.length_pending]
  have hlt := e.bufLen.isLt
  by_cases hshort : e.bufLen.val ≤ 55
  · have hpad : padMessage (blocks ++ e.pending) = blocks ++ (engineFinish e).buf.toList := by
      rw [padMessage_eq (z := 55 - e.bufLen.val) (by omega) (by omega), toList_engineFinish_buf_short hshort, hcount]
      simp only [List.append_assoc]
    have hblocks : blockCount (blocks ++ e.pending).length = n + 1 := by rw [blockCount]; omega
    rw [hpad, hblocks, chain_append_block h hlen, ← hh, engineFinish_h_short hshort]
  · have hlong : 56 ≤ e.bufLen.val := by omega
    have hpad : padMessage (blocks ++ e.pending) = blocks ++ e.firstPadded.toList ++ (engineFinish e).buf.toList := by
      rw [padMessage_eq (z := 63 - e.bufLen.val + 56) (by omega) (by omega), toList_engineFinish_buf_long hlong,
        toList_firstPadded, hcount, List.replicate_add]
      simp only [List.append_assoc]
    have hblocks : blockCount (blocks ++ e.pending).length = n + 1 + 1 := by rw [blockCount]; omega
    have hlen' : (blocks ++ e.firstPadded.toList).length = 64 * (n + 1) := by
      rw [List.length_append, Vector.length_toList, hlen, Nat.mul_succ]
    rw [hpad, hblocks, chain_append_block h hlen', chain_append_block h hlen, ← hh, engineFinish_h_long hlong]

/-- `EngineInit`, `EngineAbsorb`, `EngineFinish` compute `SHA1`. -/
theorem finishDigest_engineAbsorb (m : List Byte) : finishDigest (engineAbsorb engineInit m) = sha1 m := by
  have hcount : engineCount (engineAbsorb engineInit m) = BitVec.ofNat 64 (8 * m.length) := by
    rw [engineAbsorb_count]; exact BitVec.zero_add _
  rw [finishDigest, (absorbed_engineInit.engineAbsorb m).engineFinish_h hcount, List.nil_append, sha1]

/-! ### Runs of commands that feed the open engine (70 R156, R80)

A run of one family's UPDATE commands and of commands that leave the engine alone, `chunk` being the data of an UPDATE. -/

theorem runAll_cons {i : Instr} {is : List Instr} {s t : State} (h : exec i s = .next t) :
    runAll (i :: is) s = runAll is t := by
  simp only [runAll, h]

theorem runAll_append {is js : List Instr} {s t : State} (h : runAll is s = .next t) :
    runAll (is ++ js) s = runAll js t := by
  induction is generalizing s with
  | nil => cases h; rfl
  | cons i is ih =>
    obtain ⟨u, hu, -⟩ := exec_ends i s
    rw [List.cons_append, runAll_cons hu]
    exact ih ((runAll_cons hu).symm.trans h)

theorem running_of_ctl_eq {s t : State} (h : t.ctl = s.ctl) (hr : Running s) : Running t :=
  (congrArg Control.fault h).trans hr

theorem phase_of_ctl_eq {s t : State} {p : Phase} (h : t.ctl = s.ctl) (hp : s.ctl.phase = p) : t.ctl.phase = p :=
  (congrArg Control.phase h).trans hp

/-- One such command takes `s` to `t`: `data` is absorbed, `r` answered, and the HMAC and control registers stay. -/
structure Feeds (data : List Byte) (s t : State) (r : List Byte) : Prop where
  engine : t.engine = engineAbsorb s.engine data
  hmac : t.hmac = s.hmac
  ctl : t.ctl = s.ctl
  outbox : t.host.outbox = s.host.outbox ++ [r]

theorem frame_of_leavesEngineAlone {i : Instr} {s t : State} (h : leavesEngineAlone i = true)
    (ht : exec i s = .next t) : t.engine = s.engine ∧ t.hmac = s.hmac ∧ t.ctl = s.ctl := by
  cases effect_of_exec ht with
  | faulted _ hc => rcases updateOrFinal_of_faults hc with hop | hop | hop | hop <;> simp [leavesEngineAlone, hop] at h
  | halted | coreStatus | otpFormat | genConstruct | genConstructRefused | genSetSecret | genSetSecretRefused
    | genSetCounter | genGetCounter => exact ⟨rfl, rfl, rfl⟩
  | _ => cases h

theorem exec_leavesEngineAlone {i : Instr} (h : leavesEngineAlone i = true) (s : State) :
    ∃ t r, exec i s = .next t ∧ Feeds [] s t r := by
  obtain ⟨t, ht, he⟩ := exec_ends i s
  obtain ⟨st, p, hout, -⟩ := he.response
  obtain ⟨hengine, hhmac, hctl⟩ := frame_of_leavesEngineAlone h ht
  exact ⟨t, _, ht, hengine, hhmac, hctl, hout⟩

/-- The commands `cs` take `s` to `t`: their data are absorbed in order, and `rs` are their responses, OK for an UPDATE. -/
structure Streams (chunk : Instr → Option (List Byte)) (cs : List Instr) (s t : State) (rs : List (List Byte)) :
    Prop where
  run : runAll cs s = .next t
  engine : t.engine = engineAbsorb s.engine (cs.filterMap chunk).flatten
  hmac : t.hmac = s.hmac
  ctl : t.ctl = s.ctl
  outbox : t.host.outbox = s.host.outbox ++ rs
  length : rs.length = cs.length
  updatesOk : ∀ (k : Nat) (i : Instr), cs[k]? = some i → (chunk i).isSome = true →
    rs[k]? = some [0x00#8, 0x00#8, 0x00#8]

section Streams

variable {chunk : Instr → Option (List Byte)}

theorem Streams.nil (s : State) : Streams chunk [] s s [] where
  run := rfl
  engine := rfl
  hmac := rfl
  ctl := rfl
  outbox := (List.append_nil _).symm
  length := rfl
  updatesOk := nofun

theorem flatten_filterMap_cons (i : Instr) (cs : List Instr) :
    ((i :: cs).filterMap chunk).flatten = (chunk i).getD [] ++ (cs.filterMap chunk).flatten := by
  cases h : chunk i <;> simp [h]

theorem Streams.cons {i : Instr} {cs : List Instr} {s t u : State} {r : List Byte} {rs : List (List Byte)}
    (hi : exec i s = .next t) (hf : Feeds ((chunk i).getD []) s t r)
    (hok : (chunk i).isSome = true → r = [0x00#8, 0x00#8, 0x00#8]) (h : Streams chunk cs t u rs) :
    Streams chunk (i :: cs) s u (r :: rs) where
  run := (runAll_cons hi).trans h.run
  engine := by rw [h.engine, hf.engine, flatten_filterMap_cons, engineAbsorb_append]
  hmac := h.hmac.trans hf.hmac
  ctl := h.ctl.trans hf.ctl
  outbox := by rw [h.outbox, hf.outbox, List.append_assoc, List.singleton_append]
  length := congrArg Nat.succ h.length
  updatesOk := by
    rintro (_ | k) j hj hchunk
    · cases hj; rw [hok hchunk]; rfl
    · exact h.updatesOk k j hj hchunk

/-- From a running core in the family's own phase every such list runs to its end. -/
theorem exists_streams {own : Phase}
    (hupdate : ∀ (i : Instr) (data : List Byte) (s : State), chunk i = some data → Running s →
      s.ctl.phase = own → exec i s = .next (answered .ok [] { s with engine := engineAbsorb s.engine data }))
    {cs : List Instr} (hcs : ∀ i ∈ cs, leavesEngineAlone i = true ∨ (chunk i).isSome = true) {s : State}
    (hr : Running s) (hp : s.ctl.phase = own) : ∃ t rs, Streams chunk cs s t rs := by
  induction cs generalizing s with
  | nil => exact ⟨s, [], .nil s⟩
  | cons i cs ih =>
    obtain ⟨hi, hcs⟩ := List.forall_mem_cons.mp hcs
    cases hchunk : chunk i with
    | none =>
      obtain ⟨t, r, ht, hf⟩ := exec_leavesEngineAlone (hi.resolve_right (by simp [hchunk])) s
      obtain ⟨u, rs, h⟩ := ih hcs (running_of_ctl_eq hf.ctl hr) (phase_of_ctl_eq hf.ctl hp)
      exact ⟨u, r :: rs, .cons ht (by rwa [hchunk]) (by simp [hchunk]) h⟩
    | some data =>
      obtain ⟨u, rs, h⟩ := ih (s := answered .ok [] { s with engine := engineAbsorb s.engine data }) hcs hr hp
      have hf : Feeds data s (answered .ok [] { s with engine := engineAbsorb s.engine data }) _ := ⟨rfl, rfl, rfl, rfl⟩
      exact ⟨u, _, .cons (hupdate i data s hchunk hr hp) (by rwa [hchunk]) (fun _ => rfl) h⟩

end Streams

/-! ### The commands (R65, R67, R80, R81) -/

theorem exec_sha1Init_running {s : State} (hr : Running s) :
    exec .sha1Init s = .next (answered .ok [] (setPhase .shaActive { s with engine := engineInit })) := by
  rw [exec, execSha1Init, unlessHalted_running hr, respond_eq]

theorem exec_sha1Update_running {s : State} (hr : Running s) (data : List Byte) :
    exec (.sha1Update data) s = inPhase .shaActive .sha1Update s fun s =>
      respond .ok [] { s with engine := engineAbsorb s.engine data } := by
  rw [exec, execSha1Update, unlessHalted_running hr]

theorem exec_sha1Update_of_phase {s : State} (hr : Running s) (hp : s.ctl.phase = .shaActive) (data : List Byte) :
    exec (.sha1Update data) s = .next (answered .ok [] { s with engine := engineAbsorb s.engine data }) := by
  rw [exec_sha1Update_running hr, inPhase_own hp nofun, respond_eq]

/-- Settles O21: a running core runs it in every phase, since there is no phase check. -/
theorem sha1InitRestartsEngine : Obligations.Sha1InitRestartsEngine :=
  ⟨takesNoOperand_of_decodeBare rfl fun _ => rfl, refusedWhenHalted_of_unlessHalted fun _ => rfl,
    fun _ hr => exec_sha1Init_running hr⟩

/-- The opcode and the operand of a command that takes its whole payload. -/
theorem takesBytes_of_payloadOf {f : List Byte → Instr} {op : Opcode} (hop : ∀ data, opcodeOf (f data) = op)
    (henc : ∀ data, payloadOf (f data) = data) (hdec : ∀ data, decodePayload op data = .ok (f data)) :
    TakesBytes (opcodeByte op) f := by
  refine fun data hlen => ⟨?_, (decode_frame op data hlen).trans (hdec data)⟩
  rw [encode, hop, henc]
  rfl

/-- Settles O22: in its own phase the engine takes in the data after its pending bytes. -/
theorem sha1UpdateAbsorbs : Obligations.Sha1UpdateAbsorbs := by
  refine ⟨takesBytes_of_payloadOf (op := .sha1Update) (fun _ => rfl) (fun _ => rfl) fun _ => rfl, fun data =>
    ⟨refusedWhenHalted_of_unlessHalted fun _ => rfl,
      faultsOutsidePhase_of_inPhase (fun _ hr => exec_sha1Update_running hr data) nofun nofun, fun s hr hp => ?_⟩⟩
  have ha := s.engine.absorbed_pending.engineAbsorb data
  obtain ⟨hh, -⟩ := ha.blocks_eq
  rw [List.length_append, Engine.length_pending] at hh
  refine ⟨exec_sha1Update_of_phase hr hp data, ?_, hh, engineAbsorb_bufLen _ _⟩
  rintro rfl
  rfl

theorem eq_sha1Update_of_sha1Chunk {i : Instr} {data : List Byte} (h : sha1Chunk i = some data) :
    i = .sha1Update data := by
  cases i <;> cases h
  rfl

theorem exists_sha1_streams {cs : List Instr}
    (hcs : ∀ i ∈ cs, leavesEngineAlone i = true ∨ (sha1Chunk i).isSome = true) {s : State} (hr : Running s)
    (hp : s.ctl.phase = .shaActive) : ∃ t rs, Streams sha1Chunk cs s t rs := by
  refine exists_streams (fun i data s hi hr hp => ?_) hcs hr hp
  rw [eq_sha1Update_of_sha1Chunk hi]
  exact exec_sha1Update_of_phase hr hp data

theorem responseFrame_ok_digest (v : Vector Byte 20) :
    responseFrame .ok v.toList = 0x00#8 :: 0x00#8 :: 0x14#8 :: v.toList := by
  simp [responseFrame, lengthBytes, statusCode]

theorem IsResetCore.engine_eq {s : State} (h : IsResetCore s) : s.engine = engineInit := by
  have hbuf : s.engine.buf = Vector.replicate 64 0x00#8 := Vector.ext fun i hi => by
    rw [Vector.getElem_replicate]; exact h.buf ⟨i, hi⟩
  have hlen : s.engine.bufLen = 0 := Fin.ext h.bufLen
  change Engine.mk s.engine.h s.engine.buf s.engine.bufLen s.engine.countHi s.engine.countLo = _
  rw [h.h, hbuf, hlen, h.countHi, h.countLo]
  rfl

/-- From a fresh engine the updates and `SHA1_FINAL` answer `SHA1` of their data. -/
theorem runAll_sha1Final_of_engineInit {cs : List Instr}
    (hcs : ∀ i ∈ cs, leavesEngineAlone i = true ∨ (sha1Chunk i).isSome = true) {s : State} (hr : Running s)
    (hp : s.ctl.phase = .shaActive) (he : s.engine = engineInit) :
    ∃ (t : State) (rs : List (List Byte)), runAll (cs ++ [.sha1Final]) s = .next t ∧
      t.host.outbox = s.host.outbox ++ rs ++
        [0x00#8 :: 0x00#8 :: 0x14#8 :: (sha1 (cs.filterMap sha1Chunk).flatten).toList] ∧
      rs.length = cs.length ∧
      ∀ (k : Nat) (data : List Byte), cs[k]? = some (.sha1Update data) →
        rs[k]? = some [0x00#8, 0x00#8, 0x00#8] := by
  obtain ⟨t, rs, h⟩ := exists_sha1_streams hcs hr hp
  have hfinal := exec_sha1Final_of_phase (s := t) (running_of_ctl_eq h.ctl hr) (phase_of_ctl_eq h.ctl hp)
  refine ⟨_, rs, (runAll_append h.run).trans (runAll_cons hfinal), ?_, h.length,
    fun k data hk => h.updatesOk k _ hk rfl⟩
  rw [answered_outbox, h.engine, he, finishDigest_engineAbsorb, responseFrame_ok_digest, setPhase_host, h.outbox]

/-- Settles O30: both `SHA1_INIT` and reset leave a fresh engine in `SHA_ACTIVE`. -/
theorem commandsComputeSha1 : Obligations.CommandsComputeSha1 := by
  intro s cs hr hcs
  dsimp only
  refine ⟨?_, fun hreset => ?_⟩
  · obtain ⟨t, rs, ht, hout, hrs⟩ := runAll_sha1Final_of_engineInit hcs
      (s := answered .ok [] (setPhase .shaActive { s with engine := engineInit })) hr rfl rfl
    exact ⟨t, rs, (runAll_cons (exec_sha1Init_running hr)).trans ht, hout, hrs⟩
  · obtain ⟨t, rs, ht, hout, hrs⟩ := runAll_sha1Final_of_engineInit hcs hr hreset.phase hreset.engine_eq
    exact ⟨t, rs, ht, by rwa [List.map_nil, List.append_nil], hrs⟩

theorem filterMap_sha1Chunk_map (xs : List (List Byte)) : (xs.map Instr.sha1Update).filterMap sha1Chunk = xs := by
  rw [List.filterMap_map]
  exact List.filterMap_some

theorem exists_sha1Update_run (xs : List (List Byte)) {s : State} (hr : Running s) (hp : s.ctl.phase = .shaActive) :
    ∃ t, runAll (xs.map .sha1Update) s = .next t ∧ t.engine = engineAbsorb s.engine xs.flatten ∧
      t.ctl = s.ctl := by
  have hcs : ∀ i ∈ xs.map Instr.sha1Update, leavesEngineAlone i = true ∨ (sha1Chunk i).isSome = true := by
    simp [sha1Chunk]
  obtain ⟨t, rs, h⟩ := exists_sha1_streams hcs hr hp
  exact ⟨t, h.run, by rw [h.engine, filterMap_sha1Chunk_map], h.ctl⟩

/-- Settles O31: either list absorbs the same bytes, one list of data after the other. -/
theorem chunkingDoesNotMatter : Obligations.ChunkingDoesNotMatter := by
  intro s xs ys hr hp hflat
  obtain ⟨t, ht, hte, htc⟩ := exists_sha1Update_run xs hr hp
  obtain ⟨u, hu, hue, huc⟩ := exists_sha1Update_run ys hr hp
  have heng : t.engine = u.engine := by rw [hte, hue, hflat]
  have hfinal := exec_sha1Final_of_phase (running_of_ctl_eq htc hr) (phase_of_ctl_eq htc hp)
  rw [heng] at hfinal
  exact ⟨t, u, _, _, _, ht, hu, heng, htc.trans huc.symm, hfinal,
    exec_sha1Final_of_phase (running_of_ctl_eq huc hr) (phase_of_ctl_eq huc hp)⟩

end Sys2Proof.Machine
end

section
/-! PROOFS of the HMAC wrapper statements (41_hmac_sha1): the normalised key and its pads (R84, R89, R91), the inner and
the outer hash (R84, R87), the commands (R85, R86, R88, R92, R93), and when they are legal (R94). -/

namespace Sys2Proof.Machine

/-! ### The normalised key and the pads (R84, R89, R91) -/

theorem normalKey_long {k : List Byte} (h : 64 < k.length) : normalKey k = (sha1 k).toList := if_pos h

theorem normalKey_short {k : List Byte} (h : k.length ≤ 64) : normalKey k = k := if_neg (Nat.not_lt.mpr h)

theorem length_normalKey (k : List Byte) :
    (normalKey k).length = if 64 < k.length then 20 else k.length := by
  rw [normalKey, apply_ite List.length, Vector.length_toList]

theorem length_normalKey_le (k : List Byte) : (normalKey k).length ≤ keyMax := by
  rw [length_normalKey, keyMax]
  split <;> omega

/-- A digest is short enough to be its own normalised key (R93). -/
theorem normalKey_sha1 {k : List Byte} (h : 64 < k.length) : normalKey (sha1 k).toList = normalKey k := by
  rw [normalKey_long h, normalKey_short (by simp)]

/-- `HmacStart` hashes a key as `k'` does, so `KEY` holds `k'` for every key. -/
theorem startContext_eq (key : List Byte) :
    startContext key = keyContext (normalKey key) (length_normalKey_le key) := by
  by_cases h : key.length ≤ keyMax
  · simp only [startContext_short h, normalKey_short h]
  · simp only [startContext_long h, normalKey_long (Nat.lt_of_not_le h), hashWith, finishDigest_engineAbsorb]

/-- The normalised key is all that `HmacStart` takes from the key. -/
theorem startContext_congr {k l : List Byte} (h : normalKey k = normalKey l) : startContext k = startContext l := by
  simp only [startContext_eq, h]

theorem toList_keyContext (k : List Byte) (h : k.length ≤ keyMax) :
    (keyContext k h).key.toList = k ++ List.replicate (64 - k.length) 0x00#8 := by
  apply List.ext_getElem
  · rw [Vector.length_toList, List.length_append, List.length_replicate]
    exact (Nat.add_sub_of_le h).symm
  · intro i hi _
    rw [Vector.getElem_toList, getElem_keyContext, List.getElem_append]
    split
    · exact List.getD_eq_getElem _ _ _
    · rw [List.getD_eq_default _ _ (by omega), List.getElem_replicate]

theorem toList_startContext (key : List Byte) : (startContext key).key.toList = paddedKey key := by
  rw [startContext_eq, toList_keyContext, paddedKey]

theorem toList_xorPad (key : Vector Byte 64) (c : Byte) : (xorPad key c).toList = key.toList.map (· ^^^ c) := by
  apply List.ext_getElem <;> simp

/-! ### A block, and then some more, taken in by a fresh engine (R64, R66) -/

theorem engineAbsorb_block_h (block : Vector Byte 64) :
    (engineAbsorb engineInit block.toList).h = compress Config.iv block := by
  obtain ⟨hh, -⟩ := (absorbed_engineInit.engineAbsorb block.toList).blocks_eq
  rw [hh, List.length_append, List.length_nil, Vector.length_toList]
  exact chain_append_block _ rfl block

theorem engineAbsorb_block_buf (block : Vector Byte 64) : (engineAbsorb engineInit block.toList).buf = block := by
  apply Vector.ext
  intro i hi
  have hstored := getElem_engineAbsorb_stored engineInit block.toList (k := i) (by simpa) (by simp)
  have hplace : (engineInit.bufLen.val + i) % 64 = i := by
    change (0 + i) % 64 = i; omega
  simpa only [hplace, Vector.getElem_toList] using hstored

theorem pending_engineAbsorb_block (block : Vector Byte 64) {rest : List Byte} (hrest : rest.length < 64) :
    (engineAbsorb engineInit (block.toList ++ rest)).pending = rest := by
  obtain ⟨-, hp⟩ := (absorbed_engineInit.engineAbsorb (block.toList ++ rest)).blocks_eq
  rw [hp, List.nil_append, List.drop_left']
  simp; omega

/-! ### The inner and the outer hash (R84, R87, R91) -/

theorem startEngine_eq (key : List Byte) :
    startEngine key = engineAbsorb engineInit (xorPad (startContext key).key ipadByte).toList := by
  unfold startEngine; rfl

theorem outerEngine_eq (ctx : HmacContext) (e : Engine) : outerEngine ctx e =
    engineAbsorb engineInit ((xorPad ctx.key opadByte).toList ++ (finishDigest e).toList) := by
  unfold outerEngine; rw [engineAbsorb_append]

/-- Finishing the engine of `HmacStart` after the message gives the inner digest. -/
theorem finishDigest_startEngine (key m : List Byte) :
    finishDigest (engineAbsorb (startEngine key) m) = sha1 ((paddedKey key).map (· ^^^ ipadByte) ++ m) := by
  rw [startEngine_eq, ← engineAbsorb_append, finishDigest_engineAbsorb, toList_xorPad, toList_startContext]

theorem finishMac_eq (ctx : HmacContext) (e : Engine) :
    finishMac ctx e = sha1 (ctx.key.toList.map (· ^^^ opadByte) ++ (finishDigest e).toList) := by
  rw [finishMac, outerEngine_eq, finishDigest_engineAbsorb, toList_xorPad]

/-- `HmacStart`, `EngineAbsorb`, `HmacFinish` compute `HMAC`. -/
theorem finishMac_startEngine (key m : List Byte) :
    finishMac (startContext key) (engineAbsorb (startEngine key) m) = hmacSha1 key m := by
  rw [finishMac_eq, finishDigest_startEngine, toList_startContext, hmacSha1]

theorem outerEngine_bufLen (ctx : HmacContext) (e : Engine) : (outerEngine ctx e).bufLen.val = 20 := by
  rw [outerEngine_eq, engineAbsorb_bufLen, List.length_append, Vector.length_toList, Vector.length_toList]; rfl

theorem outerEngine_count (ctx : HmacContext) (e : Engine) : engineCount (outerEngine ctx e) = 672#64 := by
  rw [outerEngine_eq, engineAbsorb_count, List.length_append, Vector.length_toList, Vector.length_toList]; rfl

theorem outerEngine_pending (ctx : HmacContext) (e : Engine) :
    (outerEngine ctx e).pending = (finishDigest e).toList := by
  rw [outerEngine_eq, pending_engineAbsorb_block _ (by simp)]

/-- The last block of an HMAC: the inner digest, `80`, and the length of 84 bytes in bits (R75, R87). -/
theorem toList_hmacFinish_buf (ctx : HmacContext) (e : Engine) : (hmacFinish ctx e).buf.toList =
    (finishDigest e).toList ++ [0x80#8] ++ List.replicate 41 0x00#8 ++ [0x02#8, 0xA0#8] := by
  have hlen := outerEngine_bufLen ctx e
  have hlength : (bytesBe64 672#64).toList = List.replicate 6 0x00#8 ++ [0x02#8, 0xA0#8] := by decide
  have hzeros : List.replicate 41 (0x00#8 : Byte) = List.replicate (55 - 20) 0x00#8 ++ List.replicate 6 0x00#8 :=
    List.replicate_add (55 - 20) 6 _
  rw [hmacFinish, toList_engineFinish_buf_short (by omega), outerEngine_pending, outerEngine_count, hlen, hlength,
    hzeros]
  simp only [List.append_assoc]

/-! ### The commands (R85, R86, R88, R92, R93) -/

theorem exec_hmacInit_running {s : State} (hr : Running s) (key : List Byte) :
    exec (.hmacInit key) s = .next (answered .ok [] (setPhase .hmacActive (hmacStart key s))) := by
  rw [exec, execHmacInit, unlessHalted_running hr, respond_eq]

theorem exec_hmacUpdate_running {s : State} (hr : Running s) (data : List Byte) :
    exec (.hmacUpdate data) s = inPhase .hmacActive .hmacUpdate s fun s =>
      respond .ok [] { s with engine := engineAbsorb s.engine data } := by
  rw [exec, execHmacUpdate, unlessHalted_running hr]

theorem exec_hmacFinal_running {s : State} (hr : Running s) :
    exec .hmacFinal s = inPhase .hmacActive .hmacFinal s fun s =>
      respond .ok (finishMac s.hmac s.engine).toList
        (setPhase .done { s with engine := hmacFinish s.hmac s.engine }) := by
  rw [exec, execHmacFinal, unlessHalted_running hr]

theorem exec_hmacFinal_of_phase {s : State} (hr : Running s) (hp : s.ctl.phase = .hmacActive) :
    exec .hmacFinal s = .next (answered .ok (finishMac s.hmac s.engine).toList
      (setPhase .done { s with engine := hmacFinish s.hmac s.engine })) := by
  rw [exec_hmacFinal_running hr, inPhase_own hp nofun, respond_eq]

/-- Settles O33: in its own phase the engine takes in the data, as for `SHA1_UPDATE`. -/
theorem hmacUpdateAbsorbs : Obligations.HmacUpdateAbsorbs :=
  ⟨takesBytes_of_payloadOf (op := .hmacUpdate) (fun _ => rfl) (fun _ => rfl) fun _ => rfl, fun data =>
    ⟨refusedWhenHalted_of_unlessHalted fun _ => rfl,
      faultsOutsidePhase_of_inPhase (fun _ hr => exec_hmacUpdate_running hr data) nofun nofun,
      fun _ hr hp => exec_hmacUpdate_of_phase hr hp data⟩⟩

/-- Settles O32: `KEY` holds `k'` padded, and a fresh engine has taken in one block, the inner pad. -/
theorem hmacInitStartsInnerHash : Obligations.HmacInitStartsInnerHash := by
  refine ⟨takesBytes_of_payloadOf (op := .hmacInit) (fun _ => rfl) (fun _ => rfl) fun _ => rfl,
    fun _ => refusedWhenHalted_of_unlessHalted fun _ => rfl, fun s key hr =>
    ⟨startContext key, startEngine key, xorPad (startContext key).key ipadByte, exec_hmacInit_running hr key,
      ?_, fun i => ?_, fun i => getElem_xorPad _ _ i i.isLt, ?_⟩⟩
  · rw [startContext_eq, keyContext_keyLen, length_normalKey]
  · rw [startContext_eq]
    exact getElem_keyContext _ _ i i.isLt
  · rw [startEngine_eq]
    refine ⟨engineAbsorb_block_h _, engineAbsorb_block_buf _, ?_, ?_⟩
    · rw [engineAbsorb_bufLen, Vector.length_toList]; rfl
    · rw [engineAbsorb_count, Vector.length_toList]; rfl

/-- Settles O34: the engine that is finished last has taken in the outer pad, one block, and the inner digest. -/
theorem hmacFinalAnswersMac : Obligations.HmacFinalAnswersMac := by
  refine ⟨takesNoOperand_of_decodeBare rfl fun _ => rfl, refusedWhenHalted_of_unlessHalted fun _ => rfl,
    faultsOutsidePhase_of_inPhase (fun _ => exec_hmacFinal_running) nofun nofun, fun s hr hp =>
    ⟨hmacFinish s.hmac s.engine, exec_hmacFinal_of_phase hr hp, finishMac_eq _ _, toList_hmacFinish_buf _ _,
      ?_, ?_⟩⟩
  · rw [hmacFinish, engineFinish_bufLen, outerEngine_bufLen]
  · rw [hmacFinish, engineCount_congr (engineFinish_countHi _) (engineFinish_countLo _), outerEngine_count]

/-- Settles O36: the two keys have the same normalised key, and neither the function nor the command reads more. -/
theorem longKeyEqualsItsDigest : Obligations.LongKeyEqualsItsDigest := by
  intro k hk
  have hnormal := normalKey_sha1 hk
  refine ⟨fun m => ?_, fun s => ?_⟩
  · simp only [hmacSha1, paddedKey, hnormal]
  · have hctx := startContext_congr hnormal
    rw [exec, exec, execHmacInit, execHmacInit]
    simp only [hmacStart, startEngine_eq, hctx]

theorem eq_hmacUpdate_of_hmacChunk {i : Instr} {data : List Byte} (h : hmacChunk i = some data) :
    i = .hmacUpdate data := by
  cases i <;> cases h
  rfl

theorem exists_hmac_streams {cs : List Instr}
    (hcs : ∀ i ∈ cs, leavesEngineAlone i = true ∨ (hmacChunk i).isSome = true) {s : State} (hr : Running s)
    (hp : s.ctl.phase = .hmacActive) : ∃ t rs, Streams hmacChunk cs s t rs := by
  refine exists_streams (fun i data s hi hr hp => ?_) hcs hr hp
  rw [eq_hmacUpdate_of_hmacChunk hi]
  exact exec_hmacUpdate_of_phase hr hp data

/-- Settles O35: `HMAC_INIT` leaves the engine and `KEY` of `HmacStart`, the updates add their data to the engine and
keep `KEY`, and `HMAC_FINAL` answers `HmacFinish` of the two. -/
theorem commandsComputeHmac : Obligations.CommandsComputeHmac := by
  intro s k cs hr hcs
  obtain ⟨t, rs, h⟩ := exists_hmac_streams hcs
    (s := answered .ok [] (setPhase .hmacActive (hmacStart k s))) hr rfl
  have hfinal := exec_hmacFinal_of_phase (s := t) (running_of_ctl_eq h.ctl hr) (phase_of_ctl_eq h.ctl rfl)
  have hanswer : finishMac t.hmac t.engine = hmacSha1 k (cs.filterMap hmacChunk).flatten := by
    rw [h.hmac, h.engine]
    exact finishMac_startEngine k _
  refine ⟨_, rs, (runAll_cons (exec_hmacInit_running hr k)).trans ((runAll_append h.run).trans (runAll_cons hfinal)),
    ?_, h.length, fun j data hj => h.updatesOk j _ hj rfl⟩
  rw [answered_outbox, setPhase_host, h.outbox, hanswer, responseFrame_ok_digest]
  rfl

/-! ### When the commands are legal (R26, R94) -/

theorem exists_runAll (is : List Instr) (s : State) : ∃ t, runAll is s = .next t := by
  induction is generalizing s with
  | nil => exact ⟨s, rfl⟩
  | cons i is ih =>
    obtain ⟨u, hu, -⟩ := exec_ends i s
    rw [runAll_cons hu]
    exact ih u

theorem runAll_concat {is : List Instr} {i : Instr} {s t : State} (h : runAll (is ++ [i]) s = .next t) :
    ∃ u, runAll is s = .next u ∧ exec i u = .next t := by
  obtain ⟨u, hu⟩ := exists_runAll is s
  obtain ⟨v, hv, -⟩ := exec_ends i u
  rw [runAll_append hu, runAll_cons hv] at h
  exact ⟨u, hu, hv.trans h⟩

theorem lastInitOrFinal_concat (is : List Instr) (i : Instr) : lastInitOrFinal (is ++ [i]) =
    if initOrFinal (opcodeOf i) then some (opcodeOf i) else lastInitOrFinal is := by
  cases h : initOrFinal (opcodeOf i) <;> simp [lastInitOrFinal, h]

/-- Of the INIT-class and FINAL-class commands that leave the core running, `HMAC_INIT` alone leaves `HMAC_ACTIVE`. -/
theorem Effect.hmacActive_iff_of_initOrFinal {s t : State} {i : Instr} (h : Effect s i t) (hr : Running t)
    (hi : initOrFinal (opcodeOf i) = true) : t.ctl.phase = .hmacActive ↔ opcodeOf i = .hmacInit := by
  cases h with
  | halted hf => cases hf.symm.trans hr
  | faulted => cases hr
  | coreReset | sha1Init | sha1Final | hmacInit | hmacFinal | genCurrent | genNext =>
    simp [opcodeOf, State.reset, State.resetWith]
  | _ => cases hi

/-- The other commands leave the control registers alone if they leave the core running. -/
theorem Effect.ctl_eq_of_not_initOrFinal {s t : State} {i : Instr} (h : Effect s i t) (hr : Running t)
    (hi : initOrFinal (opcodeOf i) = false) : t.ctl = s.ctl := by
  cases h with
  | faulted => cases hr
  | coreReset | sha1Init | sha1Final | hmacInit | hmacFinal | genCurrent | genNext => cases hi
  | _ => rfl

/-- From reset a running core is in `HMAC_ACTIVE` exactly when the last INIT-class or FINAL-class command was `HMAC_INIT`. -/
theorem hmacActive_iff_lastInitOrFinal {s t : State} {cs : List Instr} (hs : IsResetCore s)
    (hrun : runAll cs s = .next t) (hr : Running t) :
    t.ctl.phase = .hmacActive ↔ lastInitOrFinal cs = some .hmacInit := by
  induction cs using List.reverseRecOn generalizing t with
  | nil =>
    cases hrun
    rw [hs.phase]
    exact iff_of_false nofun nofun
  | append_singleton cs i ih =>
    obtain ⟨u, hu, hexec⟩ := runAll_concat hrun
    have he := effect_of_exec hexec
    rw [lastInitOrFinal_concat]
    cases hi : initOrFinal (opcodeOf i) with
    | true => simpa using he.hmacActive_iff_of_initOrFinal hr hi
    | false =>
      have hctl := he.ctl_eq_of_not_initOrFinal hr hi
      rw [hctl]
      exact ih hu (running_of_ctl_eq hctl.symm hr)

theorem statusCode_eq_of_answered_eq {st st' : Status} {p p' : List Byte} {s s' : State}
    (h : answered st p s = answered st' p' s') : statusCode st = statusCode st' := by
  have hlast := congrArg (fun s => s.host.outbox.getLast?) h
  simp only [answered_outbox, List.getLast?_concat, Option.some.injEq] at hlast
  exact (List.cons.inj hlast).1

/-- An UPDATE or FINAL that ends OK passed the phase check (R26, R129). -/
theorem phase_of_inPhase_ok {own : Phase} {op : Opcode} {s u : State} {run : State → Result} {p : List Byte}
    (h : inPhase own op s run = .next (answered .ok p u)) : s.ctl.phase = own := by
  obtain ⟨c, -, heq⟩ | ⟨hp, -⟩ := inPhase_cases h
  · cases c <;> exact absurd (statusCode_eq_of_answered_eq heq) (by decide)
  · exact hp

/-- Settles O37: on a running core the two commands end OK exactly in `HMAC_ACTIVE`. -/
theorem hmacLegalAfterHmacInit : Obligations.HmacLegalAfterHmacInit := by
  intro s t cs hs hrun hr
  rw [← hmacActive_iff_lastInitOrFinal hs hrun hr]
  refine ⟨fun data => ⟨?_, fun hp => ⟨_, exec_hmacUpdate_of_phase hr hp data⟩⟩,
    ?_, fun hp => ⟨_, _, exec_hmacFinal_of_phase hr hp⟩⟩
  · rintro ⟨u, hu⟩
    rw [exec_hmacUpdate_running hr] at hu
    exact phase_of_inPhase_ok hu
  · rintro ⟨u, p, hu⟩
    rw [exec_hmacFinal_running hr] at hu
    exact phase_of_inPhase_ok hu

end Sys2Proof.Machine
end

section
/-! PROOFS of the OTP formatter statements (42_otp_formatter): the truncation window (R96), the checksum digit (R98), the
rendered code (R102), and the command (R99). -/

namespace Sys2Proof.Machine

/-! ### Truncation (R39, R96) -/

/-- Masking with `k` ones keeps the `k` low bits. -/
theorem toNat_and_lowMask {n k : Nat} (x : BitVec n) (hk : k ≤ n) :
    (x &&& BitVec.ofNat n (2 ^ k - 1)).toNat = x.toNat % 2 ^ k := by
  have hfits : 2 ^ k - 1 < 2 ^ n :=
    Nat.sub_one_lt_of_le (Nat.two_pow_pos k) (Nat.pow_le_pow_right (by decide) hk)
  rw [BitVec.toNat_and, BitVec.toNat_ofNat, Nat.mod_eq_of_lt hfits, Nat.and_two_pow_sub_one_eq_mod]

theorem truncOffset_eq (hmac : Vector Byte 20) : truncOffset hmac = hmac[19].toNat % 16 :=
  toNat_and_lowMask (k := 4) hmac[19] (by decide)

theorem truncate_of_offset {hmac : Vector Byte 20} {offset : Nat} (hle : offset ≤ 15)
    (hoffset : truncOffset hmac = offset) : truncate hmac =
      hmac[offset].toNat % 128 * 2 ^ 24 + hmac[offset + 1].toNat * 2 ^ 16 + hmac[offset + 2].toNat * 2 ^ 8
        + hmac[offset + 3].toNat := by
  have hmask (b : Byte) : (b &&& 0x7F#8).toNat = b.toNat % 128 := toNat_and_lowMask (k := 7) b (by decide)
  subst hoffset
  simp only [truncate, hmask]

/-- Settles O38: the mask drops the top bit of the word, which is the top bit of its first byte. -/
theorem truncateMasksWindow : Obligations.TruncateMasksWindow := by
  intro hmac
  have hle := truncOffset_le hmac
  have hval := truncate_of_offset hle rfl
  have hmask (w : Word) : (w &&& 0x7FFFFFFF#32).toNat = w.toNat % 2 ^ 31 := toNat_and_lowMask (k := 31) w (by decide)
  have h1 := hmac[truncOffset hmac + 1].isLt
  have h2 := hmac[truncOffset hmac + 2].isLt
  have h3 := hmac[truncOffset hmac + 3].isLt
  refine ⟨truncOffset hmac, hle, truncOffset_eq hmac, ?_, hval, ?_⟩
  · rw [hmask, be32_toNat, hval]
    omega
  · omega

/-! ### The checksum digit (R98) -/

theorem codeDigit_lt (c k : Nat) : codeDigit c k < 10 := Nat.mod_lt _ (by decide)

/-- The doubling table gives the digit sum of twice the digit. -/
theorem doubled_eq {d : Nat} (hd : d < 10) : doubled d = if d ≤ 4 then 2 * d else 2 * d - 9 := by
  interval_cases d <;> rfl

/-- What the digit `d` at the place `10 ^ j` adds to the sum: the positions 1, 3, 5, 7 are the even places. -/
def placeValue (j d : Nat) : Nat := if j % 2 = 0 then doubled d else d

theorem digitSum_eq_sum (c : Nat) : digitSum c = ∑ j ∈ Finset.range 7, placeValue j (c / 10 ^ j % 10) := by
  simp only [digitSum, codeDigit, placeValue, Finset.sum_range_succ, Finset.sum_range_zero, Nat.reduceSub,
    Nat.reduceMod, reduceIte, one_ne_zero]
  omega

theorem placeValue_le {j d : Nat} (hd : d < 10) : placeValue j d ≤ 9 := by
  rw [placeValue, doubled_eq hd]
  split_ifs <;> omega

/-- At every place the ten digits count differently: doubled, the small ones are even and the large ones odd. -/
theorem placeValue_inj {j d d' : Nat} (hd : d < 10) (hd' : d' < 10) (h : placeValue j d = placeValue j d') : d = d' := by
  rw [placeValue, placeValue, doubled_eq hd, doubled_eq hd'] at h
  split_ifs at h <;> omega

theorem digitSum_le (c : Nat) : digitSum c ≤ 63 := by
  rw [digitSum_eq_sum]
  exact Finset.sum_le_card_nsmul (Finset.range 7) _ 9 fun j _ => placeValue_le (Nat.mod_lt _ (by decide))

theorem checksum_lt (c : Nat) : checksum c < 10 := Nat.mod_lt _ (by decide)

theorem digitSum_add_checksum_mod (c : Nat) : (digitSum c + checksum c) % 10 = 0 := by
  rw [checksum]
  omega

/-- Settles O39: the digits are `codeDigit`'s, and their sum is `digitSum`. -/
theorem checksumCompletesDigitSum : Obligations.ChecksumCompletesDigitSum := by
  intro c hc
  have hdigits := codeDigit_lt c
  refine ⟨codeDigit c 1, codeDigit c 2, codeDigit c 3, codeDigit c 4, codeDigit c 5, codeDigit c 6, codeDigit c 7,
    by simp only [hdigits, and_self], by simp only [codeDigit]; omega, ?_⟩
  intro twice sum
  have hsum : digitSum c = sum := by
    simp only [digitSum, doubled_eq (hdigits _)]
    rfl
  rw [← hsum]
  exact ⟨digitSum_le c, rfl, digitSum_add_checksum_mod c⟩

/-- Settles O40: equal checksums would make the two values of the one differing digit equal modulo ten, and so equal. -/
theorem checksumCatchesOneDigit : Obligations.ChecksumCatchesOneDigit := by
  intro c c' _ _ k hk hdiffer heq
  have hmem : k ∈ Finset.range 7 := Finset.mem_range.mpr hk
  have hrest : ∑ j ∈ (Finset.range 7).erase k, placeValue j (c / 10 ^ j % 10) =
      ∑ j ∈ (Finset.range 7).erase k, placeValue j (c' / 10 ^ j % 10) := by
    refine Finset.sum_congr rfl fun j hj => ?_
    obtain ⟨hjk, hj⟩ := Finset.mem_erase.mp hj
    rw [(hdiffer j (Finset.mem_range.mp hj)).mpr hjk]
  have hd : c / 10 ^ k % 10 < 10 := Nat.mod_lt _ (by decide)
  have hd' : c' / 10 ^ k % 10 < 10 := Nat.mod_lt _ (by decide)
  have hvalue : placeValue k (c / 10 ^ k % 10) = placeValue k (c' / 10 ^ k % 10) := by
    have hsum := digitSum_add_checksum_mod c
    have hsum' := digitSum_add_checksum_mod c'
    have hle := placeValue_le (j := k) hd
    have hle' := placeValue_le (j := k) hd'
    rw [digitSum_eq_sum, ← Finset.add_sum_erase _ _ hmem] at hsum hsum'
    omega
  exact absurd rfl ((hdiffer k hk).mp (placeValue_inj hd hd' hvalue))

/-! ### The rendered code (R57, R102) -/

theorem asciiDigit_toNat {d : Nat} (hd : d < 10) : (asciiDigit d).toNat = 0x30 + d := by
  rw [asciiDigit, BitVec.toNat_ofNat]
  omega

theorem getElem_render_toNat (c check : Nat) {i : Nat} (hi : i < 8) :
    (render c check)[i].toNat = 0x30 + (c * 10 + check) / 10 ^ (7 - i) % 10 := by
  rw [render, Vector.getElem_ofFn, asciiDigit_toNat (Nat.mod_lt _ (by decide))]

/-- The first seven bytes are the digits of `c`, since the checksum fills the units position alone (R104). -/
theorem getElem_render_digit (c : Nat) {check i : Nat} (hcheck : check < 10) (hi : i < 7) :
    (render c check)[i].toNat = 0x30 + c / 10 ^ (6 - i) % 10 := by
  have hpow : 10 ^ (7 - i) = 10 * 10 ^ (6 - i) := by rw [← Nat.pow_succ']; congr 1; omega
  have hhigh : (c * 10 + check) / 10 = c := by omega
  rw [getElem_render_toNat, hpow, ← Nat.div_div_eq_div_mul, hhigh]

theorem getElem_render_check (c : Nat) {check : Nat} (hcheck : check < 10) :
    (render c check)[7].toNat = 0x30 + check := by
  rw [getElem_render_toNat]
  omega

/-- Settles O41: the code renders the reduced value, and its checksum is below ten. -/
theorem codeIsEightAsciiDigits : Obligations.CodeIsEightAsciiDigits := by
  intro hmac
  have hcheck := checksum_lt (reduce (truncate hmac))
  refine ⟨fun i => ?_, fun i => getElem_render_digit _ hcheck i.isLt, getElem_render_check _ hcheck⟩
  have hbyte : (otp hmac)[i].toNat = 0x30 + _ % 10 := getElem_render_toNat _ _ i.isLt
  omega

/-! ### The command (R50, R99) -/

/-- The opcode, the operand and the `LEN` of a command whose one operand has a fixed length. -/
theorem takesExactly_of_decodeFixed {n : Nat} {f : Vector Byte n → Instr} {op : Opcode} (hn : n ≤ 65535)
    (hop : ∀ v, opcodeOf (f v) = op) (henc : ∀ v, payloadOf (f v) = v.toList)
    (hdec : ∀ payload, decodePayload op payload = decodeFixed f payload) : TakesExactly n (opcodeByte op) f := by
  refine ⟨fun v => ⟨?_, ?_⟩, fun payload hne hlen => ?_⟩
  · rw [encode, hop, henc]
    rfl
  · refine (decode_frame op v.toList (v.length_toList.le.trans hn)).trans ((hdec _).trans ?_)
    exact decodeFixed_eq_ok_iff.mpr ⟨v, rfl, rfl⟩
  · have hbad : decodeFixed f payload = .error .badLength := by simp [decodeFixed, exactly, hne]
    exact answersIllegal_of_decode_error ((decode_frame op payload hlen).trans ((hdec payload).trans hbad)) nofun

theorem exec_otpFormat_running {s : State} (hr : Running s) (hmac : Vector Byte 20) :
    exec (.otpFormat hmac) s = .next (answered .ok (otp hmac).toList s) := by
  rw [exec, execOtpFormat, unlessHalted_running hr, respond_eq]
  rfl

/-- Settles O42: the command checks no phase, and `otp` is the four steps that it runs. -/
theorem otpFormatAnswersCode : Obligations.OtpFormatAnswersCode :=
  ⟨takesExactly_of_decodeFixed (op := .otpFormat) (by decide) (fun _ => rfl) (fun _ => rfl) fun _ => rfl,
    fun _ => refusedWhenHalted_of_unlessHalted fun _ => rfl, fun _ hmac hr => exec_otpFormat_running hr hmac⟩

end Sys2Proof.Machine
end

section
/-! PROOFS of the OTP generator statements (43_otp_generator): construction (R55, R106), the secret and counter accessors
(R108 to R110), and the present and the next code (R111 to R117). -/

namespace Sys2Proof.Machine

/-! ### Construction (R55, R106) -/

/-- The two bits of `FLAGS` do not overlap, so that their union is their sum (R55). -/
theorem constructFlags_eq_add (secret : Option (List Byte)) (ctr : Option (Vector Byte 8)) :
    constructFlags secret ctr = (if secret.isSome then 1#8 else 0#8) + (if ctr.isSome then 2#8 else 0#8) := by
  cases secret <;> cases ctr <;> simp [constructFlags]

theorem decode_genConstruct_frame {secret : Option (List Byte)} {ctr : Option (Vector Byte 8)}
    (hwf : (Instr.genConstruct secret ctr).wellFormed = true) :
    decode (frameBytes 0x40#8 (payloadOf (.genConstruct secret ctr))) = .ok (.genConstruct secret ctr) :=
  (decode_frame .genConstruct _ (length_payloadOf_le hwf)).trans (decodeConstruct_payloadOf secret ctr)

theorem answersIllegal_of_malformed {payload : List Byte} (hm : malformedPayload payload = true)
    (hlen : payload.length ≤ 65535) : AnswersIllegal (frameBytes 0x40#8 payload) :=
  answersIllegal_of_decode_error ((decode_frame .genConstruct payload hlen).trans (decodeConstruct_of_malformed hm))
    nofun

theorem any_secretTooShort_iff (secret : Option (List Byte)) :
    secret.any secretTooShort = true ↔ ∃ b ∈ secret, b.length < 20 := by
  simp only [Option.any_eq_true, secretTooShort_iff, Option.mem_def]

theorem not_any_secretTooShort {secret : Option (List Byte)} (h : ∀ b ∈ secret, 20 ≤ b.length) :
    ¬ secret.any secretTooShort = true := by
  rw [any_secretTooShort_iff]
  exact fun ⟨b, hb, hshort⟩ => absurd (h b hb) (Nat.not_le_of_lt hshort)

theorem any_counterTooSmall_iff (o : CtrOrder) (ctr : Option (Vector Byte 8)) :
    (ctr.map (deser o)).any counterTooSmall = true ↔ ∃ c ∈ ctr, deser o c = 0#64 := by
  simp only [Option.any_map, Option.any_eq_true, counterTooSmall_iff, Option.mem_def]

/-- The two checks on a running core, the secret's first. -/
theorem exec_genConstruct_running {s : State} (hr : Running s) (secret : Option (List Byte))
    (ctr : Option (Vector Byte 8)) : exec (.genConstruct secret ctr) s =
      if secret.any secretTooShort then .next (answered .invalidSecret [] s)
      else if (ctr.map (deser s.config.ctrOrder)).any counterTooSmall then .next (answered .invalidCounter [] s)
      else .next (answered .ok []
        { s with gen := constructed secret (ctr.map (deser s.config.ctrOrder)) }) := by
  rw [exec, execGenConstruct, unlessHalted_running hr]
  rfl

theorem exec_genConstruct_of_legal {s : State} (hr : Running s) {secret : Option (List Byte)}
    {ctr : Option (Vector Byte 8)} (hsecret : ∀ b ∈ secret, 20 ≤ b.length)
    (hctr : ∀ c ∈ ctr, deser s.config.ctrOrder c ≠ 0#64) : exec (.genConstruct secret ctr) s =
      .next (answered .ok [] { s with gen := constructed secret (ctr.map (deser s.config.ctrOrder)) }) := by
  have hnonzero : ¬ (ctr.map (deser s.config.ctrOrder)).any counterTooSmall = true := by
    rw [any_counterTooSmall_iff]
    exact fun ⟨c, hc, hzero⟩ => hctr c hc hzero
  rw [exec_genConstruct_running hr, if_neg (not_any_secretTooShort hsecret), if_neg hnonzero]

/-- Settles O43: a legal payload is `payloadOf`'s and a malformed one decodes to nothing; the two checks are made in order
before `constructed` is written. -/
theorem constructMakesNewGenerator : Obligations.ConstructMakesNewGenerator := by
  refine ⟨fun secret ctr hwf => ?_, fun _ hm hlen => answersIllegal_of_malformed hm hlen,
    fun _ _ => refusedWhenHalted_of_unlessHalted fun _ => rfl, fun s secret ctr hr => ⟨fun hshort => ?_,
      fun hlong hzero => ?_, fun hlong hnonzero => ?_⟩⟩
  · rw [← constructFlags_eq_add]
    exact decode_genConstruct_frame hwf
  · rw [exec_genConstruct_running hr, if_pos ((any_secretTooShort_iff secret).mpr hshort)]
  · rw [exec_genConstruct_running hr, if_neg (not_any_secretTooShort hlong),
      if_pos ((any_counterTooSmall_iff _ ctr).mpr hzero)]
  · rw [exec_genConstruct_of_legal hr hlong hnonzero]
    cases secret <;> cases ctr <;> rfl

/-! ### The accessors (R108 to R110) -/

theorem exec_genSetSecret_running {s : State} (hr : Running s) (secret : List Byte) :
    exec (.genSetSecret secret) s = if secretTooShort secret then .next (answered .invalidSecret [] s)
      else .next (answered .ok [] { s with gen := { s.gen with secret := secret, defsec := false } }) := by
  rw [exec, execGenSetSecret, unlessHalted_running hr]
  rfl

theorem exec_genSetCounter_running {s : State} (hr : Running s) (bytes : Vector Byte 8) :
    exec (.genSetCounter bytes) s = .next (answered .ok [] (setCounter (deser s.config.ctrOrder bytes) s)) := by
  rw [exec, execGenSetCounter, unlessHalted_running hr, respond_eq]

theorem exec_genGetCounter_running {s : State} (hr : Running s) :
    exec .genGetCounter s = .next (answered .ok (ser s.config.ctrOrder s.gen.counter).toList s) := by
  rw [exec, execGenGetCounter, unlessHalted_running hr, respond_eq]

/-- Settles O44: `secretTooShort` is the limit of 20 bytes, and there is no other check. -/
theorem setSecretValidatesLength : Obligations.SetSecretValidatesLength := by
  refine ⟨takesBytes_of_payloadOf (op := .genSetSecret) (fun _ => rfl) (fun _ => rfl) fun _ => rfl,
    fun _ => refusedWhenHalted_of_unlessHalted fun _ => rfl, fun s secret hr => ?_⟩
  simp only [exec_genSetSecret_running hr, secretTooShort_iff]
  split <;> rfl

/-- Settles O45: the value is not checked, and `ser` gives the bytes of any value. -/
theorem setCounterStoresAnyValue : Obligations.SetCounterStoresAnyValue :=
  ⟨takesExactly_of_decodeFixed (op := .genSetCounter) (by decide) (fun _ => rfl) (fun _ => rfl) fun _ => rfl,
    fun _ => refusedWhenHalted_of_unlessHalted fun _ => rfl, fun _ hr =>
    ⟨exec_genSetCounter_running hr, fun v => ⟨_, deser_ser _ v⟩⟩⟩

/-- Settles O46: `deser` inverts `ser` under the one byte order of the configuration. -/
theorem getCounterGivesBackCounter : Obligations.GetCounterGivesBackCounter := by
  refine ⟨takesNoOperand_of_decodeBare rfl fun _ => rfl, refusedWhenHalted_of_unlessHalted fun _ => rfl, fun s hr =>
    ⟨_, exec_genGetCounter_running hr, rfl, fun t ht hconfig => ?_⟩⟩
  have hrestored := exec_genSetCounter_running ht (ser s.config.ctrOrder s.gen.counter)
  rwa [hconfig, deser_ser] at hrestored

/-! ### The present and the next code (R111 to R113, R116) -/

/-- The code of the generator as it stands, `CODE(SECRET, COUNTER)` (R12, R116). -/
def presentCode (s : State) : Vector Byte 8 := code s.config.ctrOrder s.gen.secret s.gen.counter

/-- `GenCode` computes `CODE`: `HmacStart`, `EngineAbsorb`, `HmacFinish` compute `HMAC`. -/
theorem genCodeBytes_eq_presentCode (s : State) : genCodeBytes s = presentCode s :=
  congrArg otp (finishMac_startEngine s.gen.secret (ser s.config.ctrOrder s.gen.counter).toList)

theorem exec_genCurrent_eq_answerCode {s : State} (hr : Running s) : exec .genCurrent s = answerCode s := by
  rw [exec, execGenCurrent, unlessHalted_running hr]

theorem exec_genCurrent_running {s : State} (hr : Running s) :
    exec .genCurrent s = .next (answered .ok (presentCode s).toList (setPhase .done (genCode s))) := by
  rw [exec_genCurrent_eq_answerCode hr, answerCode, respond_eq, genCodeBytes_eq_presentCode]

/-- `GEN_NEXT` is `GEN_CURRENT` once the counter is advanced. -/
theorem exec_genNext_running {s : State} (hr : Running s) :
    exec .genNext s = exec .genCurrent (setCounter (s.gen.counter + 1#64) s) := by
  have hr' : Running (setCounter (s.gen.counter + 1#64) s) := hr
  rw [exec_genCurrent_eq_answerCode hr', exec, execGenNext, unlessHalted_running hr]

/-- Settles O50: `GenCode` computes `CODE` of the secret and of the counter that it finds. -/
theorem commandsComputeCode : Obligations.CommandsComputeCode :=
  fun _ hr => ⟨⟨_, exec_genCurrent_running hr⟩, _, (exec_genNext_running hr).trans (exec_genCurrent_running hr)⟩

/-- The eight bytes format the digest that `GenCode` leaves in `H` (R111). -/
theorem genCodeBytes_eq_otp (s : State) : genCodeBytes s = otp (digestBytes (genCode s).engine.h) := rfl

/-- The three HMAC commands on the secret and the 8-byte form of the counter leave the engine and the HMAC registers of
`GenCode` (R111). -/
theorem runAll_hmac_genCode {s : State} (hr : Running s) : ∃ t : State,
    runAll [.hmacInit s.gen.secret, .hmacUpdate (ser s.config.ctrOrder s.gen.counter).toList, .hmacFinal] s = .next t ∧
    t.engine = (genCode s).engine ∧ t.hmac = (genCode s).hmac := by
  have hinit := exec_hmacInit_running hr s.gen.secret
  have hupdate := exec_hmacUpdate_of_phase (s := answered .ok [] (setPhase .hmacActive (hmacStart s.gen.secret s))) hr rfl
    (ser s.config.ctrOrder s.gen.counter).toList
  refine ⟨_, (runAll_cons hinit).trans ((runAll_cons hupdate).trans (runAll_cons (exec_hmacFinal_of_phase ?_ rfl))),
    rfl, rfl⟩
  exact hr

/-- Settles O48: `GenCode` writes the engine and the HMAC registers alone, as the three HMAC commands do. -/
theorem currentCodeCompletes : Obligations.CurrentCodeCompletes := by
  refine ⟨takesNoOperand_of_decodeBare rfl fun _ => rfl, refusedWhenHalted_of_unlessHalted fun _ => rfl, fun s hr => ?_⟩
  obtain ⟨t, hrun, hengine, hhmac⟩ := runAll_hmac_genCode hr
  refine ⟨(genCode s).engine, (genCode s).hmac, t, ?_, hrun, hengine, hhmac⟩
  rw [exec_genCurrent_running hr, ← genCodeBytes_eq_presentCode, genCodeBytes_eq_otp]
  rfl

/-- Settles O49: `setCounter` writes the new counter and nothing else, and a code leaves the generator as it was. -/
theorem nextCodeAdvancesCounter : Obligations.NextCodeAdvancesCounter := by
  refine ⟨takesNoOperand_of_decodeBare rfl fun _ => rfl, refusedWhenHalted_of_unlessHalted fun _ => rfl, fun s hr => ?_⟩
  have hcurrent : exec .genCurrent (setCounter (s.gen.counter + 1#64) s) = .next _ := exec_genCurrent_running hr
  exact ⟨_, s.gen.counter + 1#64, _, (exec_genNext_running hr).trans hcurrent, BitVec.toNat_add .., rfl, rfl, hcurrent⟩

/-! ### What the code depends on (R115, R117) -/

/-- Only the five commands write `SECRET` or `COUNTER`, and none writes the byte order (R13, R32). -/
theorem presentCode_of_exec {i : Instr} {s t : State}
    (hi : opcodeOf i ∉ [.genNext, .genSetCounter, .genSetSecret, .genConstruct, .coreReset])
    (h : exec i s = .next t) : presentCode t = presentCode s := by
  obtain ⟨hconfig, -, -, -, -, hsecret, hcounter, -⟩ := everyCommandsFrame i s t h
  simp only [List.mem_cons, List.not_mem_nil, not_or] at hi hsecret hcounter
  obtain ⟨hnext, hset, hnew, hconstruct, hreset, -⟩ := hi
  obtain ⟨hsecret, -⟩ := hsecret ⟨hreset, hconstruct, hnew, not_false⟩
  rw [presentCode, presentCode, hconfig, hsecret, hcounter ⟨hreset, hconstruct, hset, hnext, not_false⟩]

theorem presentCode_of_runAll {cs : List Instr} {s t : State}
    (hcs : ∀ i ∈ cs, opcodeOf i ∉ [.genNext, .genSetCounter, .genSetSecret, .genConstruct, .coreReset])
    (h : runAll cs s = .next t) : presentCode t = presentCode s := by
  induction cs generalizing s with
  | nil => cases h; rfl
  | cons i cs ih =>
    obtain ⟨hi, hcs⟩ := List.forall_mem_cons.mp hcs
    obtain ⟨u, hu, -⟩ := exec_ends i s
    rw [runAll_cons hu] at h
    exact (ih hcs h).trans (presentCode_of_exec hi hu)

/-- Settles O51: the code stands through the commands between, and through the first `GEN_CURRENT` itself. -/
theorem currentCodeIsStable : Obligations.CurrentCodeIsStable := by
  intro s t cs hs ht hcs hrun
  have hsame : presentCode t = presentCode s :=
    presentCode_of_runAll (List.forall_mem_cons.mpr ⟨by decide, hcs⟩) hrun
  exact ⟨presentCode s, _, _, exec_genCurrent_running hs, hsame ▸ exec_genCurrent_running ht⟩

/-- Settles O52: without the wrap the next counter is not 0, so the construction succeeds, and the fresh generator has the
secret and the counter that `GEN_NEXT` computes its code from. -/
theorem nextMatchesFreshGenerator : Obligations.NextMatchesFreshGenerator := by
  intro s hr hlong hwrap
  have hnonzero : s.gen.counter + 1#64 ≠ 0#64 := by bv_omega
  have hconstruct := exec_genConstruct_of_legal hr (secret := some s.gen.secret)
    (ctr := some (ser s.config.ctrOrder (s.gen.counter + 1#64))) (by simpa using hlong) (by simpa using hnonzero)
  rw [Option.map_some, deser_ser] at hconstruct
  exact ⟨_, _, _, _, (exec_genNext_running hr).trans (exec_genCurrent_running hr), hconstruct,
    exec_genCurrent_running hr⟩

end Sys2Proof.Machine
end

section
/-! PROOFS of the system statements (44_system): `CORE_RESET` (R120) and `CORE_STATUS` (R121). -/

namespace Sys2Proof.Machine

/-! ### `CORE_RESET` (R120) -/

theorem resetCore_isResetCore (s : State) : IsResetCore (resetCore s) := { resetWith_isResetCore s.config with }

/-- The second reset finds the configuration and the port that the first one kept. -/
@[simp] theorem resetCore_resetCore (s : State) : resetCore (resetCore s) = resetCore s := rfl

theorem exec_coreReset (s : State) : exec .coreReset s = .next (answered .ok [] (resetCore s)) := rfl

/-- Settles O2: `CORE_RESET` checks nothing, and `resetCore` is idempotent. -/
theorem coreResetRestoresEverything : Obligations.CoreResetRestoresEverything := by
  refine ⟨takesNoOperand_of_decodeBare rfl fun _ => rfl, fun s => ⟨resetCore s, exec_coreReset s,
    resetCore_isResetCore s, resetCore_config s, resetCore_host s, ?_⟩⟩
  rw [exec_coreReset, resetCore_resetCore]

/-! ### `CORE_STATUS` (R121) -/

theorem exec_coreStatus (s : State) :
    exec .coreStatus s = .next (answered .ok [statusByte s, fcauseCode s.ctl.fcause, s.ctl.fop] s) := rfl

theorem bit_le (b : Bool) : bit b ≤ 1 := by cases b <;> decide

theorem decide_bit_eq_one (b : Bool) : decide (bit b = 1) = b := by cases b <;> rfl

theorem phaseCode_le (p : Phase) : phaseCode p ≤ 2 := by cases p <;> decide

/-- The sum of the three fields is at most 134, so `S0` is that number and not a remainder of it. -/
theorem statusByte_toNat (s : State) :
    (statusByte s).toNat = bit s.ctl.fault * 128 + bit s.gen.defsec * 4 + phaseCode s.ctl.phase := by
  have hfault := bit_le s.ctl.fault
  have hdefsec := bit_le s.gen.defsec
  have hphase := phaseCode_le s.ctl.phase
  rw [statusByte, BitVec.toNat_ofNat]
  exact Nat.mod_eq_of_lt (by omega)

/-- The fields of `S0` do not overlap: `DEFSEC * 4 + PHASE` is at most 6, below bit 3. -/
theorem statusByte_fields (s : State) : (statusByte s).toNat / 2 ^ 7 % 2 = bit s.ctl.fault ∧
    (statusByte s).toNat / 2 ^ 3 % 2 ^ 4 = 0 ∧ (statusByte s).toNat / 2 ^ 2 % 2 = bit s.gen.defsec := by
  have hfault := bit_le s.ctl.fault
  have hdefsec := bit_le s.gen.defsec
  have hphase := phaseCode_le s.ctl.phase
  rw [statusByte_toNat]
  omega

theorem statusByte_bit7 (s : State) : (statusByte s).getLsbD 7 = s.ctl.fault := by
  obtain ⟨hfault, -, -⟩ := statusByte_fields s
  rw [BitVec.getLsbD, Nat.testBit_eq_decide_div_mod_eq, hfault, decide_bit_eq_one]

theorem statusByte_bits_3_to_6 (s : State) : (statusByte s).extractLsb' 3 4 = 0#4 := by
  obtain ⟨-, hzero, -⟩ := statusByte_fields s
  apply BitVec.eq_of_toNat_eq
  rw [BitVec.extractLsb'_toNat, Nat.shiftRight_eq_div_pow, hzero, BitVec.toNat_zero]

theorem statusByte_bit2 (s : State) : (statusByte s).getLsbD 2 = s.gen.defsec := by
  obtain ⟨-, -, hdefsec⟩ := statusByte_fields s
  rw [BitVec.getLsbD, Nat.testBit_eq_decide_div_mod_eq, hdefsec, decide_bit_eq_one]

theorem fcauseCode_eq (c : Option FaultCause) : fcauseCode c =
    (match c with | none => 0#8 | some .reuseAfterFinal => 1#8 | some .noMatchingInit => 2#8) := by
  obtain _ | _ | _ := c <;> rfl

/-- Settles O3: the answer is `statusByte` and the two fault registers as they stand; that `FOP` is then 0 is part of the
invariant. -/
theorem coreStatusReportsThreeBytes : Obligations.CoreStatusReportsThreeBytes :=
  ⟨takesNoOperand_of_decodeBare rfl fun _ => rfl, fun s => ⟨_, _, _, exec_coreStatus s, statusByte_toNat s,
    statusByte_bit7 s, statusByte_bits_3_to_6 s, statusByte_bit2 s,
    fcauseCode_eq s.ctl.fcause, rfl, fun hinv => hinv.fopZero⟩⟩

end Sys2Proof.Machine
end

section
/-! PROOFS of the exceptions statements (60_exceptions): the order of checks (R132), fault entry (R123, R124, R129), the
halted state (R130), the way out of it (R131), and the answers that depend on no secret (R135). -/

namespace Sys2Proof.Machine

/-! ### The halted state (R130) -/

/-- Every command but the two system commands makes the halt check first. -/
theorem exec_halted {i : Instr} {s : State} (hf : s.ctl.fault = true) (hr : i ≠ .coreReset) (hs : i ≠ .coreStatus) :
    exec i s = .next (answered .halted [] s) := by
  obtain ⟨t, ht, he⟩ := exec_ends i s
  cases he with
  | halted => exact ht
  | coreReset => exact absurd rfl hr
  | coreStatus => exact absurd rfl hs
  | _ => cases hf.symm.trans ‹Running s›

/-- `HaltsFrame s frame`: the core is halted and the opcode byte is neither `CORE_RESET`'s nor `CORE_STATUS`'s (R49 step 1). -/
def HaltsFrame (s : State) (frame : List Byte) : Prop :=
  s.ctl.fault = true ∧ frame.headD 0#8 ≠ 0x00#8 ∧ frame.headD 0#8 ≠ 0x01#8

theorem not_haltsFrame_iff {s : State} {frame : List Byte} :
    ¬ HaltsFrame s frame ↔ Running s ∨ frame.headD 0#8 = 0x00#8 ∨ frame.headD 0#8 = 0x01#8 := by
  rw [HaltsFrame, Decidable.not_and_iff_or_not, Decidable.not_and_iff_or_not, Bool.not_eq_true, Decidable.not_not,
    Decidable.not_not]

/-- The first byte of a frame that decodes is its command's opcode (R48). -/
theorem headD_of_decode {frame : List Byte} {i : Instr} (h : decode frame = .ok i) :
    frame.headD 0#8 = opcodeByte (opcodeOf i) := by
  obtain ⟨rfl, -⟩ := encodeOfDecode _ _ h
  rfl

/-- The halt check on a frame is the one that its command makes (R132 item 1). -/
theorem haltsFrame_iff_of_decode {s : State} {frame : List Byte} {i : Instr} (h : decode frame = .ok i) :
    HaltsFrame s frame ↔ s.ctl.fault = true ∧ i ≠ .coreReset ∧ i ≠ .coreStatus := by
  rw [HaltsFrame, headD_of_decode h]
  cases i <;> simp [opcodeOf, opcodeByte]

theorem rejectFrame_halted {s : State} {frame : List Byte} {e : DecodeError} (he : e ≠ .notAFrame)
    (h : HaltsFrame s frame) : rejectFrame frame e s = .next (answered .halted [] s) := by
  obtain ⟨hf, hreset, hstatus⟩ := h
  have haccepted : acceptedWhenHalted (frame.headD 0#8) = false :=
    Bool.or_eq_false_iff.mpr ⟨beq_false_of_ne hreset, beq_false_of_ne hstatus⟩
  have hrefused : (s.ctl.fault && !acceptedWhenHalted (frame.headD 0#8)) = true := by rw [hf, haccepted]; rfl
  cases e with
  | notAFrame => exact absurd rfl he
  | reservedOpcode | badLength | malformedConstruct => exact if_pos hrefused

theorem ne_notAFrame_of_isFrame {frame : List Byte} {e : DecodeError} (hframe : isFrame frame = true)
    (hd : decode frame = .error e) : e ≠ .notAFrame := by
  rintro rfl
  exact decode_ne_notAFrame hframe hd

/-- A halted core refuses a frame by its first byte, whether or not the rest decodes. -/
theorem step_of_haltsFrame {s : State} {frame : List Byte} {rest : List HostInput}
    (hin : s.host.inbox = .command frame :: rest) (hframe : isFrame frame = true) (h : HaltsFrame s frame) :
    step s = .next (answered .halted [] (takeInput rest s)) := by
  cases hd : decode frame with
  | ok i =>
    obtain ⟨hf, hr, hs⟩ := (haltsFrame_iff_of_decode hd).mp h
    exact (step_of_decode_ok hin hd).trans (exec_halted hf hr hs)
  | error e =>
    exact (step_of_decode_error hin hd).trans (rejectFrame_halted (ne_notAFrame_of_isFrame hframe hd) h)

/-- Settles O18: by the halt check of each command, and by `step_of_haltsFrame` for what may not be one. -/
theorem haltedCoreRefusesEverything : Obligations.HaltedCoreRefusesEverything :=
  ⟨fun _ hr hs _ hf => exec_halted hf hr hs,
    fun _ _ _ hf hin hframe hreset hstatus => step_of_haltsFrame hin hframe ⟨hf, hreset, hstatus⟩⟩

/-! ### The order of checks (R132) -/

/-- The outcome of a command that the halt check lets pass: the phase check's, else the operand check's (R132 items 4
and 5). -/
def commandOutcome (s : State) (i : Instr) : Status :=
  match phaseTable (opcodeOf i) s.ctl.phase with
  | .faults c => .faulted c
  | .goes _ => operandCheck s.config.ctrOrder i

theorem commandOutcome_of_faults {s : State} {i : Instr} {c : FaultCause}
    (h : phaseTable (opcodeOf i) s.ctl.phase = .faults c) : commandOutcome s i = .faulted c := by
  simp only [commandOutcome, h]

theorem commandOutcome_of_goes {s : State} {i : Instr} {p : Phase}
    (h : phaseTable (opcodeOf i) s.ctl.phase = .goes p) : commandOutcome s i = operandCheck s.config.ctrOrder i := by
  simp only [commandOutcome, h]

theorem outcomeOf_of_haltsFrame {s : State} {frame : List Byte} (h : HaltsFrame s frame) :
    outcomeOf s frame = .halted := if_pos h

theorem outcomeOf_of_decode_error {s : State} {frame : List Byte} {e : DecodeError} (h : ¬ HaltsFrame s frame)
    (hd : decode frame = .error e) : outcomeOf s frame = .illegalCommand := by
  rw [HaltsFrame] at h
  rw [outcomeOf, if_neg h, hd]

theorem outcomeOf_of_decode_ok {s : State} {frame : List Byte} {i : Instr} (h : ¬ HaltsFrame s frame)
    (hd : decode frame = .ok i) : outcomeOf s frame = commandOutcome s i := by
  rw [HaltsFrame] at h
  rw [outcomeOf, if_neg h, hd]
  rfl

/-- The way in which a command ends bears the status of the first check that fails. -/
theorem Effect.outcome {s t : State} {i : Instr} (h : Effect s i t)
    (hpass : ¬ (s.ctl.fault = true ∧ i ≠ .coreReset ∧ i ≠ .coreStatus)) :
    ∃ p, t.host.outbox = s.host.outbox ++ [responseFrame (commandOutcome s i) p] := by
  cases h with
  | halted hf hr hs => exact absurd ⟨hf, hr, hs⟩ hpass
  | faulted _ hc => exact ⟨_, by rw [commandOutcome_of_faults hc]; rfl⟩
  | sha1Update _ _ hp | sha1Final _ hp | hmacUpdate _ _ hp | hmacFinal _ hp =>
    exact ⟨_, by rw [commandOutcome_of_goes (by rw [hp]; rfl)]; rfl⟩
  | genConstruct _ _ _ hok | genSetSecret _ _ hok => exact ⟨_, by rw [commandOutcome_of_goes rfl, hok]; rfl⟩
  | _ => exact ⟨_, rfl⟩

/-- Settles O15: the halt check and the decoder end a frame as `outcomeOf` says, and what passes both is a command, whose
own checks are made in the order of the statement. -/
theorem checksDecideInOrder : Obligations.ChecksDecideInOrder := by
  intro s frame rest hin hframe
  by_cases hhalts : HaltsFrame s frame
  · rw [outcomeOf_of_haltsFrame hhalts]
    exact ⟨_, _, step_of_haltsFrame hin hframe hhalts, rfl⟩
  · cases hd : decode frame with
    | error e =>
      have he := ne_notAFrame_of_isFrame hframe hd
      rw [outcomeOf_of_decode_error hhalts hd]
      exact ⟨_, _, answersIllegal_of_decode_error hd he s rest hin (not_haltsFrame_iff.mp hhalts), rfl⟩
    | ok i =>
      obtain ⟨t, ht, he⟩ := exec_ends i (takeInput rest s)
      obtain ⟨p, hp⟩ := he.outcome ((haltsFrame_iff_of_decode hd).not.mp hhalts)
      rw [outcomeOf_of_decode_ok hhalts hd]
      exact ⟨t, p, (step_of_decode_ok hin hd).trans ht, hp⟩

/-! ### Fault entry (R123, R124, R129) -/

/-- Settles O17: on a running core each of the four commands begins with its family's phase check. -/
theorem faultEntryIsPrecise : Obligations.FaultEntryIsPrecise :=
  fun data => ⟨faultsOutsidePhase_of_inPhase (fun _ hr => exec_sha1Update_running hr data) nofun nofun,
    faultsOutsidePhase_of_inPhase (fun _ => exec_sha1Final_running) nofun nofun,
    faultsOutsidePhase_of_inPhase (fun _ hr => exec_hmacUpdate_running hr data) nofun nofun,
    faultsOutsidePhase_of_inPhase (fun _ => exec_hmacFinal_running) nofun nofun⟩

/-! ### The way out of the halted state (R131) -/

/-- On a halted core a command resets, or writes nothing but its answer. -/
theorem exec_of_halted {i : Instr} {s t : State} (hf : s.ctl.fault = true) (ht : exec i s = .next t) :
    (i = .coreReset ∧ t = answered .ok [] (resetCore s)) ∨ (i ≠ .coreReset ∧ ∃ st p, t = answered st p s) := by
  cases effect_of_exec ht with
  | halted _ hr => exact .inr ⟨hr, _, _, rfl⟩
  | coreReset => exact .inl ⟨rfl, rfl⟩
  | coreStatus => exact .inr ⟨nofun, _, _, rfl⟩
  | _ => cases hf.symm.trans ‹Running s›

theorem answered_resetCore_isResetCore (st : Status) (p : List Byte) (s : State) :
    IsResetCore (answered st p (resetCore s)) := { resetCore_isResetCore s with }

theorem eq_answered_of_rejectFrame {frame : List Byte} {e : DecodeError} {s t : State}
    (h : rejectFrame frame e s = .next t) : ∃ st, t = answered st [] s := by
  obtain ⟨-, hr⟩ | ⟨-, hr⟩ | ⟨-, hr⟩ := rejectFrame_cases frame e s <;> cases hr.symm.trans h
  · exact ⟨_, rfl⟩
  · exact ⟨_, rfl⟩

/-- Settles O19: a command is `exec_of_halted`'s, an idle step and a rejected frame write nothing of the core, and the one frame
of `CORE_RESET` is `00 00 00`. -/
theorem onlyResetLeavesFault : Obligations.OnlyResetLeavesFault := by
  refine ⟨fun i s t hf ht => ?_, fun s t hf ht => ?_⟩
  · obtain ⟨hi, rfl⟩ | ⟨hi, st, p, rfl⟩ := exec_of_halted hf ht
    · exact .inl ⟨hi, answered_resetCore_isResetCore _ _ s⟩
    · exact .inr ⟨hi, rfl, rfl, rfl, rfl⟩
  · rcases step_cases s with ⟨-, hs⟩ | ⟨rest, hin, hs⟩ | ⟨frame, rest, i, hin, hd, hs⟩ | ⟨frame, rest, e, -, -, hs⟩ <;>
      rw [hs] at ht
    · cases ht
      exact .inr ⟨rfl, rfl, rfl, rfl⟩
    · cases ht
      exact .inl ⟨resetCore_isResetCore _, .inl (by rw [hin]; rfl)⟩
    · obtain ⟨rfl, rfl⟩ | ⟨-, st, p, rfl⟩ := exec_of_halted (s := takeInput rest s) hf ht
      · obtain ⟨rfl, -⟩ := encodeOfDecode _ _ hd
        exact .inl ⟨answered_resetCore_isResetCore _ _ _, .inr (by rw [hin]; rfl)⟩
      · exact .inr ⟨rfl, rfl, rfl, rfl⟩
    · obtain ⟨st, rfl⟩ := eq_answered_of_rejectFrame ht
      exact .inr ⟨rfl, rfl, rfl, rfl⟩

/-! ### `Effect` is what `exec` does -/

theorem exec_of_faults {i : Instr} {s : State} {c : FaultCause} (hr : Running s)
    (hc : phaseTable (opcodeOf i) s.ctl.phase = .faults c) :
    exec i s = .next (answered (.faulted c) [] (recordFault (opcodeOf i) c s)) := by
  obtain ⟨t, ht, he⟩ := exec_ends i s
  cases he with
  | faulted _ hc' => cases hc.symm.trans hc'; exact ht
  | halted hf => cases hf.symm.trans hr
  | sha1Update _ _ hp | sha1Final _ hp | hmacUpdate _ _ hp | hmacFinal _ hp => rw [hp] at hc; cases hc
  | _ => cases hc

/-- The two checks of `GEN_CONSTRUCT` are the operand check of the statements (R106). -/
theorem exec_genConstruct_eq_ite {s : State} (hr : Running s) (secret : Option (List Byte))
    (ctr : Option (Vector Byte 8)) : exec (.genConstruct secret ctr) s =
      if operandCheck s.config.ctrOrder (.genConstruct secret ctr) = .ok then
        .next (answered .ok [] { s with gen := constructed secret (ctr.map (deser s.config.ctrOrder)) })
      else .next (answered (operandCheck s.config.ctrOrder (.genConstruct secret ctr)) [] s) := by
  rw [exec_genConstruct_running hr, operandCheck_genConstruct]
  split
  · rfl
  · split <;> rfl

theorem exec_genSetSecret_eq_ite {s : State} (hr : Running s) (secret : List Byte) : exec (.genSetSecret secret) s =
    if operandCheck s.config.ctrOrder (.genSetSecret secret) = .ok then
      .next (answered .ok [] { s with gen := { s.gen with secret := secret, defsec := false } })
    else .next (answered (operandCheck s.config.ctrOrder (.genSetSecret secret)) [] s) := by
  rw [exec_genSetSecret_running hr, operandCheck_genSetSecret]
  split <;> rfl

/-- The converse of `effect_of_exec`. -/
theorem Effect.exec_eq {s t : State} {i : Instr} (h : Effect s i t) : exec i s = .next t := by
  cases h with
  | halted hf hr hs => exact exec_halted hf hr hs
  | faulted hr hc => exact exec_of_faults hr hc
  | coreReset => exact exec_coreReset s
  | coreStatus => exact exec_coreStatus s
  | sha1Init hr => exact exec_sha1Init_running hr
  | sha1Update data hr hp => exact exec_sha1Update_of_phase hr hp data
  | sha1Final hr hp => exact exec_sha1Final_of_phase hr hp
  | hmacInit key hr => exact exec_hmacInit_running hr key
  | hmacUpdate data hr hp => exact exec_hmacUpdate_of_phase hr hp data
  | hmacFinal hr hp => exact exec_hmacFinal_of_phase hr hp
  | otpFormat hmac hr => exact exec_otpFormat_running hr hmac
  | genConstruct secret ctr hr hok => rw [exec_genConstruct_eq_ite hr, if_pos hok]
  | genConstructRefused secret ctr hr hbad => rw [exec_genConstruct_eq_ite hr, if_neg hbad]
  | genSetSecret secret hr hok => rw [exec_genSetSecret_eq_ite hr, if_pos hok]
  | genSetSecretRefused secret hr hbad => rw [exec_genSetSecret_eq_ite hr, if_neg hbad]
  | genSetCounter bytes hr => exact exec_genSetCounter_running hr bytes
  | genGetCounter hr => exact exec_genGetCounter_running hr
  | genCurrent hr => exact exec_genCurrent_eq_answerCode hr
  | genNext hr => exact (exec_genNext_running hr).trans (exec_genCurrent_eq_answerCode (s := setCounter _ s) hr)

/-! ### Answers that depend on no secret (R135) -/

/-- `s` with another engine, other HMAC registers and another secret. -/
def withHidden (e : Engine) (k : HmacContext) (secret : List Byte) (s : State) : State :=
  { s with engine := e, hmac := k, gen := { s.gen with secret := secret } }

theorem sameButHidden_withHidden (e : Engine) (k : HmacContext) (secret : List Byte) (s : State) :
    SameButHidden s (withHidden e k secret s) := ⟨rfl, rfl, rfl, rfl, rfl⟩

theorem SameButHidden.eq_withHidden {s t : State} (h : SameButHidden s t) :
    t = withHidden t.engine t.hmac t.gen.secret s := by
  simp only [withHidden, h.counter, h.defsec, h.ctl, h.config, h.host]

/-- The checks and the answers of these commands read nothing hidden, so each ends the same way whatever is hidden. -/
theorem Effect.withHidden {s t : State} {i : Instr} (h : Effect s i t)
    (hi : opcodeOf i ∉ [.sha1Final, .hmacFinal, .genCurrent, .genNext]) (e : Engine) (k : HmacContext)
    (secret : List Byte) :
    ∃ e' k' secret', Effect (withHidden e k secret s) i (withHidden e' k' secret' t) := by
  cases h with
  | halted hf hr hs => exact ⟨_, _, _, .halted hf hr hs⟩
  | faulted hr hc => exact ⟨_, _, _, .faulted hr hc⟩
  | coreReset => exact ⟨_, _, _, .coreReset⟩
  | coreStatus => exact ⟨_, _, _, .coreStatus⟩
  | sha1Init hr => exact ⟨_, _, _, .sha1Init hr⟩
  | sha1Update data hr hp => exact ⟨_, _, _, .sha1Update data hr hp⟩
  | hmacInit key hr => exact ⟨_, _, _, .hmacInit key hr⟩
  | hmacUpdate data hr hp => exact ⟨_, _, _, .hmacUpdate data hr hp⟩
  | otpFormat hmac hr => exact ⟨_, _, _, .otpFormat hmac hr⟩
  | genConstruct secret ctr hr hok => exact ⟨_, _, _, .genConstruct secret ctr hr hok⟩
  | genConstructRefused secret ctr hr hbad => exact ⟨_, _, _, .genConstructRefused secret ctr hr hbad⟩
  | genSetSecret secret hr hok => exact ⟨_, _, _, .genSetSecret secret hr hok⟩
  | genSetSecretRefused secret hr hbad => exact ⟨_, _, _, .genSetSecretRefused secret hr hbad⟩
  | genSetCounter bytes hr => exact ⟨_, _, _, .genSetCounter bytes hr⟩
  | genGetCounter hr => exact ⟨_, _, _, .genGetCounter hr⟩
  | sha1Final | hmacFinal | genCurrent | genNext => exact absurd (by decide) hi

/-- Settles O57: the second state is the first with other hidden registers, and its command ends the same way. -/
theorem onlyFinalsAnswerFromSecrets : Obligations.OnlyFinalsAnswerFromSecrets := by
  intro s t h i hi
  obtain ⟨u, hu, he⟩ := exec_ends i s
  obtain ⟨e', k', secret', he'⟩ := he.withHidden hi t.engine t.hmac t.gen.secret
  rw [h.eq_withHidden]
  exact ⟨u, _, hu, he'.exec_eq, sameButHidden_withHidden e' k' secret' u⟩

end Sys2Proof.Machine
end

section
/-! PROOFS of the reset and hazards statements (70_reset_and_hazards): the reset event (R141, R142), the first command after
reset (R144), and the end of a run (R153, R156). -/

namespace Sys2Proof.Machine

/-! ### The reset event (R141, R142) -/

theorem step_of_reset {s : State} {rest : List HostInput} (h : s.host.inbox = .reset :: rest) :
    step s = .next (resetCore (takeInput rest s)) := by
  simp only [step, h, resetEvent_eq]

/-- Settles O4: `resetCore` writes every item of the core, and the host's lists and the configuration stay. -/
theorem resetEventLeavesResetState : Obligations.ResetEventLeavesResetState :=
  fun _ _ hin => ⟨_, step_of_reset hin, resetCore_isResetCore _, rfl, rfl, rfl⟩

/-! ### The first command after reset (R144) -/

/-- In the phase that reset leaves, `HMAC_UPDATE` and `HMAC_FINAL` alone fault (R26). -/
theorem phaseTable_shaActive_faults_iff {op : Opcode} {c : FaultCause} :
    phaseTable op .shaActive = .faults c ↔ (op = .hmacUpdate ∨ op = .hmacFinal) ∧ c = .noMatchingInit := by
  cases op <;> simp [phaseTable, eq_comm]

theorem IsResetCore.finishDigest_eq {s : State} (h : IsResetCore s) : finishDigest s.engine = sha1 [] := by
  rw [h.engine_eq, ← finishDigest_engineAbsorb, engineAbsorb_nil]

theorem IsResetCore.genCodeBytes_eq {s : State} (h : IsResetCore s) :
    genCodeBytes s = code s.config.ctrOrder Config.defaultSecret 1#64 := by
  have hsecret : s.gen.secret = Config.defaultSecret := h.secret
  rw [genCodeBytes_eq_presentCode, presentCode, hsecret, h.counter]

/-- Settles O5: of the ways in which a command can end, reset leaves open the fault of the two HMAC commands and, for valid
operands, those that answer OK. -/
theorem firstCommandAfterReset : Obligations.FirstCommandAfterReset := by
  intro s hs i hok
  obtain ⟨t, ht, he⟩ := exec_ends i s
  cases he with
  | halted hf => cases hf.symm.trans hs.fault
  | faulted _ hc =>
    rw [hs.phase, phaseTable_shaActive_faults_iff] at hc
    obtain ⟨hop, rfl⟩ := hc
    exact ⟨_, [], (if_pos hop).mpr ht, by rintro rfl; simp [opcodeOf] at hop, by rintro rfl; simp [opcodeOf] at hop⟩
  | hmacUpdate _ _ hp | hmacFinal _ hp => cases hp.symm.trans hs.phase
  | genConstructRefused _ _ _ hbad | genSetSecretRefused _ _ hbad => exact absurd hok hbad
  | sha1Final =>
    exact ⟨_, _, (if_neg (by simp [opcodeOf])).mpr ht, fun _ => congrArg Vector.toList hs.finishDigest_eq, nofun⟩
  | genCurrent =>
    exact ⟨_, _, (if_neg (by simp [opcodeOf])).mpr ht, nofun, fun _ => congrArg Vector.toList hs.genCodeBytes_eq⟩
  | _ => exact ⟨_, _, (if_neg (by simp [opcodeOf])).mpr ht, nofun, nofun⟩

/-! ### The end of a run (R153, R156) -/

/-- A step takes the first input, if there is one, and no other. -/
theorem inbox_of_step {s t : State} (h : step s = .next t) : t.host.inbox = s.host.inbox.tail := by
  rcases step_cases s with ⟨hin, hs⟩ | ⟨rest, hin, hs⟩ | ⟨frame, rest, i, hin, -, hs⟩ | ⟨frame, rest, e, hin, -, hs⟩ <;>
    rw [hs] at h <;> rw [hin]
  · cases h
    exact hin
  · cases h
    rfl
  · obtain ⟨-, hinbox, -⟩ := everyCommandsFrame _ _ _ h
    exact hinbox
  · obtain ⟨st, rfl⟩ := eq_answered_of_rejectFrame h
    rfl

/-- A reset event is not answered, and a frame is answered once. -/
theorem exists_step_of_input {s : State} {x : HostInput} {rest : List HostInput} (hin : s.host.inbox = x :: rest)
    (hframe : ∀ f, x = .command f → isFrame f = true) : ∃ (t : State) (rs : List (List Byte)),
    step s = .next t ∧ t.host.outbox = s.host.outbox ++ rs ∧ rs.length = if x = .reset then 0 else 1 := by
  cases x with
  | reset => exact ⟨_, [], step_of_reset hin, (List.append_nil _).symm, rfl⟩
  | command f =>
    obtain ⟨t, p, ht, hout⟩ := checksDecideInOrder s f rest hin (hframe f rfl)
    exact ⟨t, [_], ht, hout, rfl⟩

theorem run_succ_of_step {M : Host.Core} {s t : M.State} (h : M.step s = .next t) (k : Nat) :
    M.run (k + 1) s = M.run k t := by
  rw [Host.Core.run, h]

/-- The run takes the inputs one by one, each step answering as `exists_step_of_input` says. -/
theorem exists_run_of_inbox {inputs : List HostInput} {s : State} (hin : s.host.inbox = inputs)
    (hframes : ∀ f, .command f ∈ inputs → isFrame f = true) :
    ∃ t : State, Sys2Proof.core.run inputs.length s = .next t ∧ t.host.inbox = [] ∧
      ∃ rs : List (List Byte), t.host.outbox = s.host.outbox ++ rs ∧
        rs.length = (inputs.filter fun x => x ≠ .reset).length := by
  induction inputs generalizing s with
  | nil => exact ⟨s, rfl, hin, [], (List.append_nil _).symm, rfl⟩
  | cons x rest ih =>
    obtain ⟨u, r, hu, hout, hlen⟩ := exists_step_of_input hin fun f hf => hframes f (hf ▸ List.mem_cons_self)
    have hrest : u.host.inbox = rest := by rw [inbox_of_step hu, hin, List.tail_cons]
    obtain ⟨t, ht, hempty, rs, hout', hlen'⟩ := ih hrest fun f hf => hframes f (List.mem_cons_of_mem _ hf)
    refine ⟨t, (run_succ_of_step (M := Sys2Proof.core) hu _).trans ht, hempty, r ++ rs, ?_, ?_⟩
    · rw [hout', hout, List.append_assoc]
    · rw [List.length_append, hlen, hlen', List.filter_cons]
      by_cases hx : x = .reset
      · simp [hx]
      · simp [hx, Nat.add_comm]

/-- Settles O58: by induction over the inputs. -/
theorem finiteListHasFiniteRun : Obligations.FiniteListHasFiniteRun :=
  fun _ hframes => exists_run_of_inbox rfl hframes

end Sys2Proof.Machine
end
